-- ==== Sys2Proof/Word.lean ====
section
/-! DEFINITION. The word types of the model: bytes, the 16-bit and 32-bit fields of frames and stream records. -/

namespace Sys2Proof

/-- One byte of a frame, of the patch stream or of the block store. -/
abbrev Byte := BitVec 8

/-- A 16-bit field: a job id, a section number, a parcel sequence number, a check word. -/
abbrev Word16 := BitVec 16

/-- A 32-bit field: a CRC-32 digest. -/
abbrev Word32 := BitVec 32

/-- A run of bytes: a body, a payload, the content of a block. -/
abbrev Bytes := List Byte

end Sys2Proof
end

