-- ==== Sys2Proof/Config.lean ====
section
/-! DEFINITION. The fixed sizes of the part (00_scope.md section 2) and the free values: what the spec leaves open and
nothing here decides. A free value is a constant with no body, so a claim holds whatever it is. -/

namespace Sys2Proof.Config

/-- Bytes in one block (R153). -/
abbrev blockBytes : Nat := 512

/-- Blocks in the store (R153). -/
abbrev storeBlocks : Nat := 4096

/-- Longest frame body (R167). -/
abbrev maxBody : Nat := 520

/-- Entries of the request table (R171). -/
abbrev tableEntries : Nat := 4

/-- Notices the notice queue holds (R175). -/
abbrev noticePlaces : Nat := 8

/-- Places of the Directive Queue (R82). -/
abbrev queuePlaces : Nat := 16

/-- Bytes of the literal ring (R83). -/
abbrev ringBytes : Nat := 4096

/-- Ranges of the repair list (R30). -/
abbrev repairRanges : Nat := 32

/-- Places of the VE task queue (R124). -/
abbrev taskPlaces : Nat := 4

/-- Slots of the Parcel Window (4.2). -/
abbrev windowSlots : Nat := 16

/-- Numbers the sequence history covers (R68). -/
abbrev historyLength : Nat := 32

/-- FREE VALUE (log entry 5). The byte that storage holds at a store address after the power-on numbered by the first
argument, before the start-up clear has written it ("the storage cells hold no defined content", section 9.5). -/
opaque powerOnByte : Nat → Nat → Byte

/-- FREE VALUE (log entry 6). Whether a write in flight at a pin reset leaves the new content (R164: "either the old content and
old check word, or the new content and new check word"). -/
opaque resetKeepsNew : Nat → Bool

/-- FREE VALUE (log entry 7). The check word of a content at an absolute index: R154 gives its width and what it is computed
from, not the function. -/
opaque checkWord : Bytes → Nat → Word16

/-- FREE VALUE (log entry 9). Whether SD acts before RU in an event in which RU starts an item and SD, woken by the place
freed, has something waiting: the spec makes both part of one event and gives no order. -/
opaque decoderFirst : Nat → Bool

/-- FREE VALUE (log entry 5). The check word held with a block after the power-on numbered by the first argument, before the start-up
clear has written it: section 9.5 says only that check words match nothing. -/
opaque powerOnCheckWord : Nat → Nat → Word16

/-! Whether a block takes its ABORT stop in the event of the ABORT itself (log entry 18): R148 gives the stop in that event, R18 has each
block stop "at its next boundary", and R150 allows the reports "in the event of the ABORT itself" as well as later. -/

/-- FREE VALUE (log entry 18). SD takes its stop in ABORT's own event. -/
opaque decoderStopsAtOnce : Nat → Bool

/-- FREE VALUE (log entry 18). RU takes its stop in ABORT's own event. -/
opaque unitStopsAtOnce : Nat → Bool

/-- FREE VALUE (log entry 18). VE takes its stop in ABORT's own event. -/
opaque verifierStopsAtOnce : Nat → Bool

/-- FREE VALUE (log entry 18). CT takes its stop in ABORT's own event. -/
opaque scanStopsAtOnce : Nat → Bool

end Sys2Proof.Config
end

