-- ==== Sys2Proof/Machine/Bytes.lean ====
section
/-! DEFINITION. Byte order and the two cyclic checks: little-endian fields (R182), the CRC-16 of frames (R169) and the
CRC-32 of digests (R58). -/

namespace Sys2Proof.Machine

/-- A number as a two-byte field, least significant byte first (R182). -/
def le16 (n : Nat) : Bytes := [BitVec.ofNat 8 n, BitVec.ofNat 8 (n / 256)]

/-- A number as a four-byte field, least significant byte first (R182). -/
def le32 (n : Nat) : Bytes :=
  [BitVec.ofNat 8 n, BitVec.ofNat 8 (n / 256), BitVec.ofNat 8 (n / 65536), BitVec.ofNat 8 (n / 16777216)]

/-- A number as a one-byte field. -/
def le8 (n : Nat) : Bytes := [BitVec.ofNat 8 n]

/-- The unsigned value of a field carried least significant byte first (R184). -/
def fromLe : Bytes → Nat
  | [] => 0
  | b :: rest => b.toNat + 256 * fromLe rest

/-- The value of the field of a body that starts at an offset and has a size (R184). -/
def field (body : Bytes) (offset size : Nat) : Nat :=
  fromLe ((body.drop offset).take size)

/-- The two's complement value of a two-byte field (the COPY_NEW displacement, R189). -/
def signed16 (n : Nat) : Int :=
  if n % 65536 < 32768 then (n % 65536 : Nat) else (n % 65536 : Nat) - 65536

/-- A flag byte, 00h clear and 01h set (R183). -/
def flagByte (b : Bool) : Byte := if b then 1 else 0

/-- One shift of the CRC-16 register toward its most significant end (R169). -/
def crc16Bit (r : Word16) : Word16 :=
  if r.msb then (r <<< 1) ^^^ 0x1021#16 else r <<< 1

/-- One byte entering the CRC-16 register, most significant bit first (R169). -/
def crc16Byte (r : Word16) (b : Byte) : Word16 :=
  (List.range 8).foldl (fun r _ => crc16Bit r) (r ^^^ (b.setWidth 16 <<< 8))

/-- The CRC-16 of a frame's fields: initial value FFFFh, no final XOR (R169). -/
def crc16 (bytes : Bytes) : Word16 :=
  bytes.foldl crc16Byte 0xFFFF#16

/-- One shift of the CRC-32 register toward its least significant end (R58). -/
def crc32Bit (r : Word32) : Word32 :=
  if r.getLsbD 0 then (r >>> 1) ^^^ 0xEDB88320#32 else r >>> 1

/-- One byte entering the CRC-32 register, least significant bit first (R58). -/
def crc32Byte (r : Word32) (b : Byte) : Word32 :=
  (List.range 8).foldl (fun r _ => crc32Bit r) (r ^^^ b.setWidth 32)

/-- The initial value of the CRC-32 register (R58, R126). -/
def crc32Init : Word32 := 0xFFFFFFFF#32

/-- Bytes folded into the CRC-32 register, in order (R126). -/
def crc32Fold (r : Word32) (bytes : Bytes) : Word32 :=
  bytes.foldl crc32Byte r

/-- The final XOR that turns the register into the digest (R58, R127). -/
def crc32Final (r : Word32) : Word32 := r ^^^ 0xFFFFFFFF#32

/-- The digest of a run of bytes (R58). -/
def crc32 (bytes : Bytes) : Word32 := crc32Final (crc32Fold crc32Init bytes)

/-- The body length a frame announces: the two bytes after the start byte (R167). -/
def frameBodyLength (frame : Bytes) : Nat := field frame 0 2

/-- Whether the CRC-16 carried in a complete frame's last two bytes is that of its fields (R169). -/
def frameCrcOk (frame : Bytes) : Bool :=
  (crc16 (frame.take (frame.length - 2))).toNat == field frame (frame.length - 2) 2

/-- Whether a complete frame has kind 01h, request (R169). -/
def frameKindOk (frame : Bytes) : Bool := frame[2]? == some (1 : Byte)

end Sys2Proof.Machine
end

