-- ==== Sys2Proof/Syntax.lean ====
section
/-! DEFINITION. The commands of the part: one constructor per row of spec/opcode_table.json, in the table's order. -/

namespace Sys2Proof

/-- The commands. A request command stands for the event in which the last CRC byte of a good request frame arrives
(R171), and carries the frame's tag and body; an event command stands for the event of its row; POWER_ON and PIN_RESET
carry the strap levels sampled at their end (R166). -/
inductive Instr where
  /-- POWER_ON (R163), with the RATE1 and RATE0 levels sampled (true is high). -/
  | powerOn (rate1 rate0 : Bool)
  /-- PIN_RESET (R180), with the RATE1 and RATE0 levels at the rising edge. -/
  | pinReset (rate1 rate0 : Bool)
  /-- CLEAR_WRITE_COMPLETE (R163). -/
  | clearWriteComplete
  /-- FRAME_LENGTH_ERR (R167). -/
  | frameLengthErr
  /-- FRAME_GAP_EXPIRY (R168). -/
  | frameGapExpiry
  /-- BAD_FRAME (R169), with the bytes of the complete frame after its start byte. -/
  | badFrame (frame : Bytes)
  /-- UNKNOWN_REQUEST (R172). -/
  | unknownRequest (tag code : Byte) (body : Bytes)
  /-- IDENTIFY (R20). -/
  | identify (tag : Byte) (body : Bytes)
  /-- STATUS (R19). -/
  | status (tag : Byte) (body : Bytes)
  /-- LOAD_JOB (R2). -/
  | loadJob (tag : Byte) (body : Bytes)
  /-- RUN (R10). -/
  | run (tag : Byte) (body : Bytes)
  /-- PAUSE (R13). -/
  | pause (tag : Byte) (body : Bytes)
  /-- RECOVER (R146). -/
  | recover (tag : Byte) (body : Bytes)
  /-- ABORT (R148). -/
  | abort (tag : Byte) (body : Bytes)
  /-- PARCEL (R61). -/
  | parcel (tag : Byte) (body : Bytes)
  /-- GET_MAP (R36). -/
  | getMap (tag : Byte) (body : Bytes)
  /-- GET_REPAIRS (R37). -/
  | getRepairs (tag : Byte) (body : Bytes)
  /-- FILL, the host's request (R114). -/
  | fill (tag : Byte) (body : Bytes)
  /-- WAIVE (R38). -/
  | waive (tag : Byte) (body : Bytes)
  /-- REPAIR_SCAN (R39). -/
  | repairScan (tag : Byte) (body : Bytes)
  /-- CLOSE_IMAGE (R132). -/
  | closeImage (tag : Byte) (body : Bytes)
  /-- READ_BLOCK (R159). -/
  | readBlock (tag : Byte) (body : Bytes)
  /-- WRITE_BLOCK (R160). -/
  | writeBlock (tag : Byte) (body : Bytes)
  /-- ACK_NOTICES (R177). -/
  | ackNotices (tag : Byte) (body : Bytes)
  /-- REPLAY_NOTICES (R176). -/
  | replayNotices (tag : Byte) (body : Bytes)
  /-- TX_FRAME_END (R174). -/
  | txFrameEnd
  /-- SD_TAKE_BYTE (R80). -/
  | sdTakeByte
  /-- SD_SUSPEND (R87). -/
  | sdSuspend
  /-- SD_HALT (R141). -/
  | sdHalt
  /-- SD_ABORT_STOP (R94). -/
  | sdAbortStop
  /-- GAP_HOLD_EXPIRY (R71). -/
  | gapHoldExpiry
  /-- RU_TAKE_ITEM (R98). -/
  | ruTakeItem
  /-- RU_READ_COMPLETE (R104). -/
  | ruReadComplete
  /-- RU_WRITE_COMPLETE (R109). -/
  | ruWriteComplete
  /-- RU_QUIESCING_NOTICE (R117). -/
  | ruQuiescingNotice
  /-- RU_ABORT_STOP (R118). -/
  | ruAbortStop
  /-- VE_ABORT_STOP (R137). -/
  | veAbortStop
  /-- SCAN_ABORT_STOP (R42). -/
  | scanAbortStop
  /-- VE_READ_COMPLETE (R126). -/
  | veReadComplete
  /-- HOST_TRANSFER_COMPLETE (R158). -/
  | hostTransferComplete
  /-- SCAN_VISIT (R39). -/
  | scanVisit
  /-- PROGRESS_MONITOR_EXPIRY (R120). -/
  | progressMonitorExpiry
  /-- RXD_BYTE_RECEIVED (R167), with the byte. -/
  | rxdByteReceived (byte : Byte)
  /-- BLOCK_DAMAGED (R154), with the absolute index and the content the cells are left with. -/
  | blockDamaged (index : Nat) (content : Bytes)
  deriving DecidableEq, Repr

/-- The tag and body of a request command of the eighteen codes; none for every other command. -/
def Instr.request? : Instr → Option (Byte × Bytes)
  | .identify t b | .status t b | .loadJob t b | .run t b | .pause t b | .recover t b | .abort t b | .parcel t b
  | .getMap t b | .getRepairs t b | .fill t b | .waive t b | .repairScan t b | .closeImage t b | .readBlock t b
  | .writeBlock t b | .ackNotices t b | .replayNotices t b => some (t, b)
  | .powerOn _ _ | .pinReset _ _ | .clearWriteComplete | .frameLengthErr | .frameGapExpiry | .badFrame _
  | .unknownRequest _ _ _ | .txFrameEnd | .sdTakeByte | .sdSuspend | .sdHalt | .sdAbortStop | .gapHoldExpiry
  | .ruTakeItem | .ruReadComplete | .ruWriteComplete | .ruQuiescingNotice | .ruAbortStop | .veAbortStop
  | .scanAbortStop | .veReadComplete | .hostTransferComplete | .scanVisit | .progressMonitorExpiry
  | .rxdByteReceived _ | .blockDamaged _ _ => none

end Sys2Proof
end

