-- ==== Sys2Proof/WellFormed.lean ====
section
/-! DEFINITION. Which commands can occur: bodies a frame can carry, bad frames that are bad, codes that are unknown,
blocks that exist. -/

namespace Sys2Proof

/-- The eighteen request codes (R183). -/
def requestCodes : List Byte :=
  [0x01, 0x02, 0x10, 0x11, 0x12, 0x13, 0x14, 0x20, 0x30, 0x31, 0x32, 0x33, 0x34, 0x38, 0x40, 0x41, 0x50, 0x51]

/-- A body that a frame can carry (R167: a body length above 520 discards the frame). -/
def bodyFits (body : Bytes) : Bool := body.length ≤ Config.maxBody

/-- Whether a command can occur at all. -/
def WellFormed : Instr → Bool
  | .identify _ b | .status _ b | .loadJob _ b | .run _ b | .pause _ b | .recover _ b | .abort _ b | .parcel _ b
  | .getMap _ b | .getRepairs _ b | .fill _ b | .waive _ b | .repairScan _ b | .closeImage _ b | .readBlock _ b
  | .writeBlock _ b | .ackNotices _ b | .replayNotices _ b => bodyFits b
  | .unknownRequest _ code b => bodyFits b && !requestCodes.contains code
  | .badFrame frame =>
      decide (frame.length = Machine.frameBodyLength frame + 7) && decide (Machine.frameBodyLength frame ≤ Config.maxBody)
        && (!Machine.frameCrcOk frame || !Machine.frameKindOk frame)
  | .blockDamaged index content => decide (index < Config.storeBlocks) && decide (content.length = Config.blockBytes)
  | .powerOn _ _ | .pinReset _ _ | .clearWriteComplete | .frameLengthErr | .frameGapExpiry | .txFrameEnd | .sdTakeByte
  | .sdSuspend | .sdHalt | .sdAbortStop | .gapHoldExpiry | .ruTakeItem | .ruReadComplete | .ruWriteComplete
  | .ruQuiescingNotice | .ruAbortStop | .veAbortStop | .scanAbortStop | .veReadComplete | .hostTransferComplete
  | .scanVisit | .progressMonitorExpiry | .rxdByteReceived _ => true

end Sys2Proof
end

