-- ==== Sys2Proof/Decode.lean ====
section
/-! DEFINITION. The reading of a command from the table's bits. No row of spec/opcode_table.json gives bits (all 44 rows have an
empty list of fields and no fixed bits), so no word spells a command. -/

namespace Sys2Proof

/-- The command that a word spells by the table's bits: none, since no row of the table gives bits. -/
def decodeTableWord (_nbits _w : Nat) : Option Instr := none

end Sys2Proof
end

