-- ==== Sys2Proof/Machine/State.lean ====
section
/-! DEFINITION. The state of the part, block by block as 00_scope.md section 3.1 names them, and its value after power-on. -/

namespace Sys2Proof.Machine

/-! ### Enumerations (R183) -/

/-- The fill policy of the descriptor (R1, R112). -/
inductive FillPolicy where
  | carry
  | byte
  /-- NONE: hole blocks are not written. -/
  | noFill
  deriving DecidableEq, Repr

/-- The mode of a host FILL (R114). -/
inductive FillMode where
  | carry
  | byte
  deriving DecidableEq, Repr

/-- The job states other than NONE, which is the absence of a job (R7). -/
inductive JobPhase where
  | ready
  | running
  | stopping
  | quiescing
  | faulted
  | servicing
  | closing
  | closed
  | aborting
  deriving DecidableEq, Repr

/-- Why a run stopped (R12, R13). -/
inductive StopReason where
  | limit
  | pause
  /-- END: an IMAGE_END item was pushed. -/
  | endOfImage
  deriving DecidableEq, Repr

/-- The coverage state of a target block (section 2.1). -/
inductive Coverage where
  | empty
  | written
  | verified
  | carried
  | suspect
  | waived
  deriving DecidableEq, Repr

/-- PW's answer to a parcel (R61). -/
inductive Verdict where
  | taken
  | duplicate
  | late
  | ahead
  | stale
  deriving DecidableEq, Repr

/-- The fifteen fault codes (R139). -/
inductive FaultCode where
  | badEscape
  | badMarker
  | badHeader
  | sectionRange
  | badDirective
  | badIncrement
  | blockOverrun
  | editOverrun
  | unexpectedMarker
  | expectedMarker
  | endMismatch
  | sourceRange
  | selfSource
  | skipWithoutSource
  | storeCheck
  deriving DecidableEq, Repr

/-- The origin of a fault (R6). -/
inductive FaultOrigin where
  | decoder
  | reconstruction
  deriving DecidableEq, Repr

/-- The cause of a STALL (R120). -/
inductive StallCause where
  | verifyWait
  | gapWait
  | starved
  | hunting
  | other
  deriving DecidableEq, Repr

/-- The cause of a READY (R179). -/
inductive ReadyCause where
  | powerOn
  | pin
  deriving DecidableEq, Repr

/-- The reply statuses (R183). -/
inductive ReplyStatus where
  | ok
  | started
  | notReady
  | noJob
  | wrongState
  | busy
  | badParam
  | badLength
  | unknownRequest
  | locked
  | checkFailed
  | incomplete
  deriving DecidableEq, Repr

/-- The three requesters of the store (R156). -/
inductive Requester where
  | ru
  | ve
  | lp
  deriving DecidableEq, Repr

/-! ### The block store -/

/-- An absolute block index, 0 to 4095 (R153). -/
abbrev BlockIndex := Fin Config.storeBlocks

/-- A store transaction: one whole block read, or written with the 512 bytes it carries (R153, R155). -/
inductive StoreOp where
  | read (index : BlockIndex)
  | write (index : BlockIndex) (content : Bytes)
  deriving DecidableEq, Repr

/-- The transaction in flight, from its grant to its completion (R155). -/
structure Transaction where
  requester : Requester
  op : StoreOp
  deriving DecidableEq, Repr

/-- A damaged block and the check word the store still holds with it (R154). -/
structure Damage where
  index : Nat
  checkWord : Word16
  deriving DecidableEq, Repr

/-- The start-up clear while it runs (R163). -/
structure Clear where
  /-- The block being written. -/
  next : Nat
  /-- Blocks 0 to cleared − 1 have been zeroed since power-on. -/
  cleared : Nat
  /-- Block number `cleared` has a consistent check word all the same: a pin reset cut the clear's write of it and left the old
  content (R164). -/
  consistent : Bool
  /-- Which power-on this clear follows: the number its undefined content is drawn by. -/
  epoch : Nat
  deriving DecidableEq, Repr

/-- The block store and its arbiter (R153 to R165). -/
structure Store where
  /-- The bytes that are not 00h, at index × 512 + offset, addresses rising. -/
  memory : List Host.Cell
  /-- The damaged blocks, indices rising. -/
  damaged : List Damage
  /-- The start-up clear, while it runs. -/
  clear : Option Clear
  inFlight : Option Transaction
  lastGranted : Requester
  deriving DecidableEq, Repr

/-! ### The job context (JC) -/

/-- The descriptor, as accepted by LOAD_JOB (section 1.2). -/
structure Descriptor where
  jobId : Word16
  baseFirst : Nat
  baseLength : Nat
  targetFirst : Nat
  /-- L_T. -/
  targetLength : Nat
  /-- W. -/
  bandWidth : Nat
  firstSequence : Word16
  /-- In milliseconds. -/
  gapHold : Nat
  /-- In units of 100 ms; 0 disables the progress monitor. -/
  progressPeriod : Nat
  fillPolicy : FillPolicy
  fillByte : Byte
  deriving DecidableEq, Repr

/-- The eleven job counters, in the order of the table of R4. -/
structure JobCounters where
  parcelsTaken : Nat
  duplicates : Nat
  lateParcels : Nat
  staleParcels : Nat
  numbersLost : Nat
  sectionsCompleted : Nat
  sectionsAbandoned : Nat
  blocksWritten : Nat
  blocksFilled : Nat
  digestMismatches : Nat
  stalls : Nat
  deriving DecidableEq, Repr

/-- The end record held (R5). -/
structure EndRecord where
  seen : Bool
  digest : Option Word32
  deriving DecidableEq, Repr

/-- Where a decoder fault was decided: the parcel's sequence number and the byte offset in its payload (R6, R80). -/
structure StreamPlace where
  sequence : Word16
  offset : Nat
  deriving DecidableEq, Repr

/-- The fault record (R6). Its origin is that of its code (R139). -/
structure FaultRecord where
  code : FaultCode
  inSection? : Option Word16
  block? : Option Nat
  place? : Option StreamPlace
  secondary : Nat
  deriving DecidableEq, Repr

/-- What JC has told a block and the block has not yet taken: each is an event of its own at the block (R7, R148). -/
structure Signals where
  /-- SD's suspension (R87). -/
  suspend : Bool
  /-- SD's halt (R141). -/
  halt : Bool
  /-- SD's ABORT stop (R94). -/
  decoderStop : Bool
  /-- RU's quiescing notice (R117). -/
  quiescing : Bool
  /-- RU's ABORT stop (R118). -/
  unitStop : Bool
  /-- VE's ABORT stop (R137). -/
  verifierStop : Bool
  /-- CT's ABORT stop (R42). -/
  scanStop : Bool
  deriving DecidableEq, Repr

/-! ### The Parcel Window (PW) -/

/-- A parcel held in a slot (R62). -/
structure Parcel where
  sequence : Word16
  payload : Bytes
  deriving DecidableEq, Repr

/-- What became of a number the window has passed (R68). -/
inductive Fate where
  | consumed
  | lost
  deriving DecidableEq, Repr

/-- The gap hold timer (R70): idle, or running with the time it was started with, in milliseconds. -/
inductive GapTimer where
  | idle
  | running (milliseconds : Nat)
  deriving DecidableEq, Repr

/-- The window (section 4.2). -/
structure Window where
  /-- B. -/
  base : Word16
  /-- The sixteen slots; the parcel numbered s lies in slot s mod 16. -/
  slots : List (Option Parcel)
  readOffset : Nat
  /-- The fates of B − 1, B − 2 and so on, newest first, at most 32. -/
  history : List Fate
  gapTimer : GapTimer
  deriving DecidableEq, Repr

/-! ### The Directive Queue (DQ) and the literal ring -/

/-- An edit of a BLOCK item: where it goes in the block and where its data lie in the ring (R82). -/
structure Edit where
  offset : Nat
  length : Nat
  place : Nat
  deriving DecidableEq, Repr

/-- The kind and operand of a BLOCK item (R82). -/
inductive Directive where
  | copyKeep
  | copyNew (displacement : Int)
  | self (distance : Nat)
  /-- LITERAL, with the ring place of its 512 bytes. -/
  | literal (place : Nat)
  | fill (value : Byte)
  deriving DecidableEq, Repr

/-- A BLOCK item (R82). -/
structure BlockItem where
  sectionNumber : Word16
  /-- The directive's own block. -/
  block : Nat
  increment : Nat
  directive : Directive
  edits : List Edit
  deriving DecidableEq, Repr

/-- The items of the Directive Queue (R82). -/
inductive Item where
  | sectionBegin (start : Nat)
  | block (item : BlockItem)
  | sectionEnd (number : Word16) (start count : Nat) (digest : Option Word32)
  | abandon
  | imageEnd (digest : Word32)
  deriving DecidableEq, Repr

/-- The literal ring: the bytes held, oldest first, and the ring place of the oldest (R83). -/
structure Ring where
  head : Nat
  bytes : Bytes
  deriving DecidableEq, Repr

/-! ### The Stream Decoder (SD) -/

/-- The limit of a run (R10). -/
inductive Limit where
  | continuous
  | blocks (count : Nat)
  | sections (count : Nat)
  deriving DecidableEq, Repr

/-- The sub-positions of section 5.3; the first two are HUNT, the others SECTION. -/
inductive SubPosition where
  | seeking
  | endBody
  | header
  | lead
  | directive
  | trailer
  | markerExpected
  deriving DecidableEq, Repr

/-- The escape state of R46. -/
inductive Escape where
  | clear
  | seenE7
  | seenE71D
  | seenMarkerStart
  deriving DecidableEq, Repr

/-- A destuffed byte with the place of the parcel byte that delivered it (R80). -/
structure StreamByte where
  value : Byte
  place : StreamPlace
  deriving DecidableEq, Repr

/-- The five directive kinds (R51). -/
inductive DirectiveKind where
  | copyKeep
  | copyNew
  | self
  | literal
  | fill
  deriving DecidableEq, Repr

/-- What the directive in hand expects next. -/
inductive DirectiveStage where
  | increment
  /-- The operand of COPY_NEW, SELF or FILL, with its bytes so far. -/
  | operand (got : Bytes)
  /-- The LITERAL operand, with its ring place and how many bytes have arrived. -/
  | literal (place taken : Nat)
  /-- An edit's skip and length, with their bytes so far. -/
  | editHead (got : Bytes)
  /-- An edit's data: its offset in the block, its length, its ring place and how many bytes have arrived. -/
  | editData (offset length place taken : Nat)
  deriving DecidableEq, Repr

/-- The directive in hand. -/
structure PartialDirective where
  kind : DirectiveKind
  editCount : Nat
  increment : Nat
  /-- The own block, once the increment byte has placed it. -/
  block? : Option Nat
  /-- The directive with its operand, once complete. -/
  directive : Directive
  cursor : Nat
  edits : List Edit
  /-- The bytes it has written into the ring, still uncommitted (R83). -/
  uncommitted : Nat
  stage : DirectiveStage
  deriving DecidableEq, Repr

/-- The partial record: the fields of the record element in hand so far. -/
inductive PartialRecord where
  | nothing
  /-- Header, trailer or end record bytes so far. -/
  | bytes (got : Bytes)
  | directive (d : PartialDirective)
  deriving DecidableEq, Repr

/-- The section most recently opened (section 5.2). -/
structure SectionContext where
  number : Word16
  start : Nat
  count : Nat
  hasDigest : Bool
  lastPlaced : Option Nat
  beginPushed : Bool
  endPushed : Bool
  deriving DecidableEq, Repr

/-- SD's state (section 5.2). -/
structure Decoder where
  /-- The run state: RUNNING or STOPPED. -/
  running : Bool
  limit : Option Limit
  blocksCovered : Nat
  sectionsCompleted : Nat
  position : SubPosition
  escape : Escape
  waitingBytes : List StreamByte
  record : PartialRecord
  context : Option SectionContext
  waitingOutput : List Item
  faultMark : Bool
  deriving DecidableEq, Repr

/-! ### The Reconstruction Unit (RU) -/

/-- RU's activity (R97). -/
inductive Activity where
  | idle
  | build
  | hole
  | verifyWait
  | fill
  | halted
  deriving DecidableEq, Repr

/-- The current item with its progress: its blocks next to stop − 1 are still to be done. -/
structure CurrentItem where
  item : Item
  next : Nat
  stop : Nat
  deriving DecidableEq, Repr

/-- What the block in hand is. -/
inductive BlockWork where
  /-- A skipped block, copied with this displacement (R104). -/
  | skipped (displacement : Int)
  /-- The own block of COPY_KEEP or COPY_NEW, copied with this displacement (R105). -/
  | ownCopy (displacement : Int)
  /-- The own block of SELF, and whether it is tainted (R106). -/
  | ownSelf (tainted : Bool)
  /-- The own block of LITERAL or FILL (R107). -/
  | ownData
  /-- A hole block (R112). -/
  | holeFill
  /-- A block of a host FILL (R115). -/
  | hostFill (final : Bool)
  deriving DecidableEq, Repr

/-- Whether the block in hand is being read or written. -/
inductive BlockStep where
  | reading
  | writing
  deriving DecidableEq, Repr

/-- The block in hand (section 6.2). -/
structure BlockInHand where
  target : Nat
  step : BlockStep
  work : BlockWork
  deriving DecidableEq, Repr

/-- A host FILL in progress (R114). -/
structure FillOperation where
  first : Nat
  count : Nat
  mode : FillMode
  value : Byte
  final : Bool
  next : Nat
  filled : Nat
  deriving DecidableEq, Repr

/-- The progress monitor (R119): running with the time it was started with, in milliseconds. -/
inductive Monitor where
  | stopped
  | running (milliseconds : Nat)
  | expired
  deriving DecidableEq, Repr

/-- Which of JC's orders RU has taken: none, the quiescing notice (R117) or the ABORT stop (R118). -/
inductive UnitOrder where
  | work
  | quiesce
  | stop
  deriving DecidableEq, Repr

/-- RU's state (section 6.2). -/
structure ReconUnit where
  activity : Activity
  item : Option CurrentItem
  block : Option BlockInHand
  /-- The store request waiting for grant; an outstanding one is the store's transaction in flight. -/
  waiting : Option StoreOp
  displacement : Option Int
  carry : List Int
  fill : Option FillOperation
  monitor : Monitor
  order : UnitOrder
  deriving DecidableEq, Repr

/-! ### The Coverage Tracker (CT) -/

/-- A range of target blocks: first to first + count − 1 (R30). -/
structure BlockRange where
  first : Nat
  count : Nat
  deriving DecidableEq, Repr

/-- A repair scan in progress (R39). -/
structure Scan where
  position : Nat
  ranges : List BlockRange
  foundMore : Bool
  deriving DecidableEq, Repr

/-- CT's state (section 2.1). -/
structure Tracker where
  /-- One state for each target block 0 to L_T − 1. -/
  map : List Coverage
  /-- F. -/
  frontier : Nat
  repairs : List BlockRange
  overflow : Bool
  scan : Option Scan
  deriving DecidableEq, Repr

/-! ### The Verifier (VE) -/

/-- A digest task (R101, R124). -/
structure DigestTask where
  number : Word16
  start : Nat
  count : Nat
  digest : Word32
  deriving DecidableEq, Repr

/-- The progress of the task at the head of the queue (R124). -/
structure TaskProgress where
  next : Nat
  register : Word32
  deriving DecidableEq, Repr

/-- The whole-image check (R124, R133). -/
structure CloseOperation where
  next : Nat
  register : Word32
  expected : Word32
  deriving DecidableEq, Repr

/-- VE's state (R124). -/
structure Verifier where
  tasks : List DigestTask
  progress : Option TaskProgress
  close : Option CloseOperation
  /-- The block whose read waits for grant; an outstanding read is the store's transaction in flight. -/
  waiting : Option BlockIndex
  /-- The outstanding read is discarded. -/
  discarded : Bool
  deriving DecidableEq, Repr

/-- Everything that exists while a job exists. -/
structure Job where
  descriptor : Descriptor
  phase : JobPhase
  stopReason : Option StopReason
  endRecord : EndRecord
  faultRecord : Option FaultRecord
  counters : JobCounters
  signals : Signals
  /-- SD has reported quiet in this quiesce (R141). -/
  decoderQuiet : Bool
  /-- RU has reported that it holds no store transaction of the job (R118). -/
  unitClear : Bool
  /-- VE has reported that it holds no store transaction of the job (R137). -/
  verifierClear : Bool
  window : Window
  decoder : Decoder
  /-- The Directive Queue, head first. -/
  queue : List Item
  ring : Ring
  unit : ReconUnit
  tracker : Tracker
  verifier : Verifier
  deriving DecidableEq, Repr

/-! ### The Link Port (LP) -/

/-- The bit rates of R166. -/
inductive LineRate where
  | mbit1
  | mbit3
  | mbit6
  | mbit12
  deriving DecidableEq, Repr

/-- The frame receiver (R167): the bytes held are those after the start byte. Its gap timing runs while assembling (R168). -/
inductive Receiver where
  | hunting
  | assembling (held : Bytes)
  deriving DecidableEq, Repr

/-- The six link counters (R170). -/
structure LinkErrors where
  length : Nat
  gap : Nat
  crc : Nat
  kind : Nat
  tag : Nat
  overrun : Nat
  deriving DecidableEq, Repr

/-- An entry of the request table in use (R171); its reply, once produced, is the one of its tag in the reply waiting set. -/
structure RequestEntry where
  tag : Byte
  code : Byte
  deriving DecidableEq, Repr

/-- The job's part of a STATUS reply (R19, R186). -/
structure JobStatus where
  phase : JobPhase
  jobId : Word16
  stopReason : Option StopReason
  endRecord : EndRecord
  faultRecord : Option FaultRecord
  counters : JobCounters
  decoderRunning : Bool
  inSection : Bool
  frontier : Nat
  repairCount : Nat
  overflow : Bool
  windowBase : Word16
  heldParcels : Nat
  queuedItems : Nat
  ringHeld : Nat
  tasksHeld : Nat
  taskInProgress : Bool
  deriving DecidableEq, Repr

/-- The values of a STATUS reply (R19). -/
structure StatusSnapshot where
  job : Option JobStatus
  errors : LinkErrors
  dropped : Nat
  deriving DecidableEq, Repr

/-- The body of a reply (R186). -/
inductive ReplyBody where
  | empty
  /-- BAD_PARAM: the failing field's number. -/
  | badField (number : Nat)
  /-- INCOMPLETE: the condition, its value and its state. -/
  | unmet (condition value : Nat) (state : Coverage)
  | identity
  | status (snapshot : StatusSnapshot)
  | parcel (verdict : Verdict) (base : Word16) (free : Nat)
  | map (first count frontier : Nat) (states : List Coverage)
  | repairs (frontier : Nat) (overflow : Bool) (ranges : List BlockRange)
  | waived (waived left : Nat)
  /-- READ_BLOCK's OK: the index and the block's bytes. -/
  | blockRead (index : Nat) (content : Bytes)
  /-- The index alone: WRITE_BLOCK's OK, LOCKED and CHECK_FAILED. -/
  | blockIndex (index : Nat)
  | acked (removed held : Nat)
  | replayed (count : Nat)
  deriving DecidableEq, Repr

/-- A reply of the reply waiting set (R173). -/
structure Reply where
  tag : Byte
  status : ReplyStatus
  body : ReplyBody
  deriving DecidableEq, Repr

/-- A host transfer in LP's queue (R158). -/
structure HostTransfer where
  tag : Byte
  op : StoreOp
  deriving DecidableEq, Repr

/-- The notices, each with the values of its body (R187). -/
inductive Notice where
  | ready (cause : ReadyCause)
  | stopped (jobId : Word16) (reason : StopReason) (blocksCovered sectionsCompleted : Nat)
  | fault (jobId : Word16) (record : FaultRecord)
  | gap (jobId firstLost : Word16) (count : Nat) (base : Word16)
  /-- MISMATCH; cause CHECK names the failing block, cause DIGEST none. -/
  | mismatch (jobId sectionNumber : Word16) (start count : Nat) (failing : Option Nat)
  | stall (jobId : Word16) (cause : StallCause) (frontier : Nat) (base : Word16) (held queued : Nat)
  | fillDone (jobId : Word16) (filled : Nat)
  | scanDone (jobId : Word16) (ranges : Nat) (overflow : Bool)
  | repairOverflow (jobId : Word16) (range : BlockRange) (ranges : Nat)
  | closed (jobId : Word16) (targetLength : Nat) (digest : Word32)
  /-- CLOSE_FAILED with cause MISMATCH. -/
  | closeMismatch (jobId : Word16) (computed expected : Word32)
  /-- CLOSE_FAILED with cause CHECK. -/
  | closeCheck (jobId : Word16) (block : Nat)
  | aborted (jobId : Word16)
  | noticeOverflow (dropped : Nat)
  deriving DecidableEq, Repr

/-- A notice held in the notice queue (R175). -/
structure HeldNotice where
  notice : Notice
  sequence : Byte
  sent : Bool
  deriving DecidableEq, Repr

/-- The frame being sent on TXD (R174). -/
inductive TxFrame where
  | reply (r : Reply)
  | notice (n : Notice) (sequence : Byte)
  deriving DecidableEq, Repr

/-- LP's state (sections 10.2 to 10.7). -/
structure Link where
  rate : LineRate
  receiver : Receiver
  errors : LinkErrors
  /-- The entries in use of the four of the request table, oldest first. -/
  table : List RequestEntry
  /-- The replies produced and not yet sent to their end, oldest first. -/
  replies : List Reply
  /-- LP's queue of host transfers; its head is LP's request, waiting or in flight (R158). -/
  transfers : List HostTransfer
  sending : Option TxFrame
  replyRun : Nat
  notices : List HeldNotice
  nextNotice : Byte
  dropped : Nat
  deriving DecidableEq, Repr

/-! ### The whole state -/

/-- The state of the part, and the queue of commands that wait. -/
structure State where
  /-- The commands waiting, first in, first out: the model's own field. -/
  pending : List Instr
  /-- The counter the free values are drawn by: the model's own field. -/
  freeIndex : Nat
  link : Link
  store : Store
  job : Option Job
  deriving DecidableEq, Repr

/-- Why the model stops with a fault. -/
inductive Fault where
  /-- Raised by BLOCK_DAMAGED when it names a block above 4095: no such block exists (R153). Safe: the event cannot occur. -/
  | noSuchBlock (index : Nat)
  deriving DecidableEq, Repr

/-- Why the model refuses a command. -/
inductive Refusal where
  /-- Raised by an arm of exec whose command has no meaning yet; no arm raises it. Safe: the model stops. -/
  | notModelled (mnemonic : String)
  deriving DecidableEq, Repr

/-- The outcome of a command. -/
abbrev Result := Host.Outcome State Fault Refusal

/-! ### Values after power-on -/

/-- The rate the straps select (R166). -/
def LineRate.ofStraps (rate1 rate0 : Bool) : LineRate :=
  match rate1, rate0 with
  | false, false => .mbit1
  | false, true => .mbit3
  | true, false => .mbit6
  | true, true => .mbit12

/-- Link counters all 0 (R170). -/
def LinkErrors.zero : LinkErrors := ⟨0, 0, 0, 0, 0, 0⟩

/-- LP at the end of a reset, before READY is posted (R180). -/
def Link.reset (rate : LineRate) : Link where
  rate := rate
  receiver := .hunting
  errors := LinkErrors.zero
  table := []
  replies := []
  transfers := []
  sending := none
  replyRun := 0
  notices := []
  nextNotice := 0
  dropped := 0

/-- BS at power-on: the start-up clear is at block 0 and no content is defined (R163). -/
def Store.powerOn (epoch : Nat) : Store where
  memory := []
  damaged := []
  clear := some ⟨0, 0, false, epoch⟩
  inFlight := none
  lastGranted := .lp

/-- The machine right after power-on: no job, an empty link, the start-up clear at its beginning (R21, R163, R180). The strap
levels are not the spec's to give: both low here (log entry 3). Free value number 0 is the content this power-on left, so the
counter stands at 1 (log entry 24). -/
def State.reset : State where
  pending := []
  freeIndex := 1
  link := Link.reset .mbit1
  store := Store.powerOn 0
  job := none

end Sys2Proof.Machine
end

