-- ==== Sys2Proof/Machine/Ops.lean ====
section
/-! DEFINITION. The named operations over the store, the link and the job: every meaning reads and writes the state through
them. -/

namespace Sys2Proof.Machine

/-! ### Counters -/

/-- A counter that saturates at its largest value (00_scope.md section 6). -/
def saturate (limit n : Nat) : Nat := min n limit

/-- The largest value of a job counter (R4). -/
abbrev jobCounterMax : Nat := 4294967295

/-- The largest value of a link counter (R170). -/
abbrev linkCounterMax : Nat := 65535

/-- The largest value of the secondary fault count and of the dropped notice count (R6, R178). -/
abbrev byteCounterMax : Nat := 255

/-! ### Memory: the bytes of the block store -/

/-- The byte at a store address; an unlisted address reads as 00h, as the start-up clear leaves it (R163). -/
def Memory.read (m : List Host.Cell) (address : Nat) : Byte :=
  match m.find? (fun c => c.1 == address) with
  | some c => c.2
  | none => 0

/-- The cells that a run of bytes lists from an address: those that are not 00h. -/
def Memory.cells (address : Nat) : Bytes → List Host.Cell
  | [] => []
  | b :: rest => if b = 0 then Memory.cells (address + 1) rest else (address, b) :: Memory.cells (address + 1) rest

/-- A run of bytes written from an address. -/
def Memory.write (m : List Host.Cell) (address : Nat) (bytes : Bytes) : List Host.Cell :=
  m.filter (fun c => c.1 < address) ++ Memory.cells address bytes
    ++ m.filter (fun c => address + bytes.length ≤ c.1)

/-- Bytes of the whole store (R153). -/
abbrev storeBytes : Nat := Config.storeBlocks * Config.blockBytes

/-- The canonical form: addresses strictly rising inside the store, and no cell that holds 00h. -/
abbrev Memory.wf (m : List Host.Cell) : Prop :=
  m.Pairwise (fun a b => a.1 < b.1) ∧ ∀ c ∈ m, c.2 ≠ 0 ∧ c.1 < storeBytes

/-! ### The block store (R153, R154, R163) -/

/-- Exactly 512 bytes: cut, or filled up with 00h. -/
def blockOf (bytes : Bytes) : Bytes := (bytes ++ List.replicate Config.blockBytes 0).take Config.blockBytes

/-- A block of 512 copies of one byte. -/
def uniformBlock (b : Byte) : Bytes := List.replicate Config.blockBytes b

/-- The absolute index of a region's block (R99, R153). -/
def storeIndex (regionFirst relative : Nat) : BlockIndex := Fin.ofNat Config.storeBlocks (regionFirst + relative)

/-- Whether the start-up clear has not yet written a block since power-on, so that its content is undefined (section 9.5). -/
def Store.unwritten (st : Store) (index : Nat) : Bool :=
  match st.clear with
  | some c => decide (c.cleared ≤ index)
  | none => false

/-- The byte a store address holds. -/
def Store.byteAt (st : Store) (address : Nat) : Byte :=
  match st.clear with
  | some c => if c.cleared ≤ address / Config.blockBytes then Config.powerOnByte c.epoch address
      else Memory.read st.memory address
  | none => Memory.read st.memory address

/-- The 512 bytes a block holds. -/
def Store.content (st : Store) (index : Nat) : Bytes :=
  (List.range Config.blockBytes).map (fun i => st.byteAt (index * Config.blockBytes + i))

/-- Whether a block is sound: its check word matches its content (R154). At power-on check words match nothing (section 9.5),
but for the block whose clear a pin reset cut (R164). -/
def Store.sound (st : Store) (index : Nat) : Bool :=
  !(st.damaged.any (fun d => d.index == index)) &&
    match st.clear with
    | some c => decide (index < c.cleared) || (index == c.cleared && c.consistent)
    | none => true

/-- The check word held with a block (R154): of a damaged block the one kept beside the damage; of a block that the start-up clear
has not written, a free value, since the spec says only that it matches nothing (section 9.5; log entry 5); else the one computed from
content and index. -/
def Store.checkWordAt (st : Store) (index : Nat) : Word16 :=
  match st.damaged.find? (fun d => d.index == index), st.clear with
  | some d, _ => d.checkWord
  | none, some c =>
    if st.sound index then Config.checkWord (st.content index) index else Config.powerOnCheckWord c.epoch index
  | none, none => Config.checkWord (st.content index) index

/-- What a read completes with: the block's bytes, or none for a check failure (R154). -/
def Store.readBlock (st : Store) (index : BlockIndex) : Option Bytes :=
  if st.sound index.val then some (st.content index.val) else none

/-- The completion of a write: new content and a fresh check word, so the block is sound (R154, R155). -/
def Store.writeBlock (st : Store) (index : BlockIndex) (content : Bytes) : Store :=
  { st with
    memory := Memory.write st.memory (index.val * Config.blockBytes) (blockOf content)
    damaged := st.damaged.filter (fun d => d.index != index.val) }

/-- A damage record put in its place by index. -/
def insertDamage (d : Damage) : List Damage → List Damage
  | [] => [d]
  | e :: rest => if d.index < e.index then d :: e :: rest else if e.index = d.index then d :: rest else e :: insertDamage d rest

/-- A block's cells lose or alter their content without a write: the block is damaged, and keeps the check word it had
(R154). -/
def Store.damageBlock (st : Store) (index : BlockIndex) (content : Bytes) : Store :=
  { st with
    memory := Memory.write st.memory (index.val * Config.blockBytes) (blockOf content)
    damaged := insertDamage ⟨index.val, st.checkWordAt index.val⟩ st.damaged }

/-- Whether a requester holds the transaction in flight (R155). -/
def Store.outstanding (st : Store) (who : Requester) : Bool :=
  match st.inFlight with
  | some t => t.requester == who
  | none => false

/-! ### The link: notices, replies and the transmitter -/

/-- A notice is posted: queued at the tail with the next sequence number, or dropped and counted (R175, R178). -/
def Link.post (n : Notice) (l : Link) : Link :=
  if l.notices.length < Config.noticePlaces then
    { l with notices := l.notices ++ [⟨n, l.nextNotice, false⟩], nextNotice := l.nextNotice + 1 }
  else { l with dropped := saturate byteCounterMax (l.dropped + 1) }

/-- Notices posted in one event, in order. -/
def Link.postAll (ns : List Notice) (l : Link) : Link := ns.foldl (fun l n => l.post n) l

/-- A reply joins the reply waiting set (R173). -/
def Link.reply (tag : Byte) (status : ReplyStatus) (body : ReplyBody) (l : Link) : Link :=
  { l with replies := l.replies ++ [⟨tag, status, body⟩] }

/-- The first unsent notice marked sent (R174). -/
def markFirstUnsent : List HeldNotice → List HeldNotice
  | [] => []
  | n :: rest => if n.sent then n :: markFirstUnsent rest else { n with sent := true } :: rest

/-- The transmit arbiter starts the oldest unsent notice. -/
def Link.sendNotice (n : HeldNotice) (l : Link) : Link :=
  { l with sending := some (.notice n.notice n.sequence), notices := markFirstUnsent l.notices }

/-- The transmit arbiter chooses the next frame when the transmitter is idle (R174): a waiting notice when the reply run is 4,
else the oldest reply, else the oldest unsent notice. -/
def Link.transmit (l : Link) : Link :=
  match l.sending with
  | some _ => l
  | none =>
    match l.notices.find? (fun n => !n.sent), l.replies with
    | some n, [] => l.sendNotice n
    | some n, r :: _ => if 4 ≤ l.replyRun then l.sendNotice n else { l with sending := some (.reply r) }
    | none, r :: _ => { l with sending := some (.reply r) }
    | none, [] => l

/-- The reasons for which a frame is discarded (R170). -/
inductive DiscardReason where
  | length
  | gap
  | crc
  | kind
  | tag
  | overrun
  deriving DecidableEq, Repr

/-- A discarded frame is counted for its reason (R170). -/
def LinkErrors.count (reason : DiscardReason) (e : LinkErrors) : LinkErrors :=
  match reason with
  | .length => { e with length := saturate linkCounterMax (e.length + 1) }
  | .gap => { e with gap := saturate linkCounterMax (e.gap + 1) }
  | .crc => { e with crc := saturate linkCounterMax (e.crc + 1) }
  | .kind => { e with kind := saturate linkCounterMax (e.kind + 1) }
  | .tag => { e with tag := saturate linkCounterMax (e.tag + 1) }
  | .overrun => { e with overrun := saturate linkCounterMax (e.overrun + 1) }

/-- A frame is discarded: counted, and the receiver hunts again (R167, R170). -/
def Link.discard (reason : DiscardReason) (l : Link) : Link :=
  { l with receiver := .hunting, errors := l.errors.count reason }

/-! ### The whole state -/

/-- The link changed, all else kept. -/
def State.mapLink (f : Link → Link) (s : State) : State := { s with link := f s.link }

/-- The transmit arbiter's choice at the end of an event (R174). -/
def State.transmit (s : State) : State := s.mapLink Link.transmit

/-- A reply is produced. -/
def State.reply (tag : Byte) (status : ReplyStatus) (body : ReplyBody) (s : State) : State :=
  s.mapLink (Link.reply tag status body)

/-- A notice is posted. -/
def State.post (n : Notice) (s : State) : State := s.mapLink (Link.post n)

/-- A free value is drawn: the counter moves on. -/
def State.drawn (s : State) : State := { s with freeIndex := s.freeIndex + 1 }

/-! ### The job's part of an event -/

/-- The job in an event, with the notices that the event has posted so far, oldest first. -/
structure Work where
  job : Job
  notices : List Notice
  deriving DecidableEq, Repr

/-- The job changed. -/
def Work.map (f : Job → Job) (w : Work) : Work := { w with job := f w.job }

/-- A notice is posted. -/
def Work.post (n : Notice) (w : Work) : Work := { w with notices := w.notices ++ [n] }

/-- The job after an event, and its notices posted in order. -/
def State.finishWork (s : State) (w : Work) : State :=
  { s with job := some w.job, link := s.link.postAll w.notices }

/-- The eleven job counters (R4). -/
inductive JobCounter where
  | parcelsTaken
  | duplicates
  | lateParcels
  | staleParcels
  | numbersLost
  | sectionsCompleted
  | sectionsAbandoned
  | blocksWritten
  | blocksFilled
  | digestMismatches
  | stalls
  deriving DecidableEq, Repr

/-- All job counters 0 (R2). -/
def JobCounters.zero : JobCounters := ⟨0, 0, 0, 0, 0, 0, 0, 0, 0, 0, 0⟩

/-- A job counter grows by an increment and saturates (R4). -/
def JobCounters.add (c : JobCounter) (k : Nat) (j : JobCounters) : JobCounters :=
  match c with
  | .parcelsTaken => { j with parcelsTaken := saturate jobCounterMax (j.parcelsTaken + k) }
  | .duplicates => { j with duplicates := saturate jobCounterMax (j.duplicates + k) }
  | .lateParcels => { j with lateParcels := saturate jobCounterMax (j.lateParcels + k) }
  | .staleParcels => { j with staleParcels := saturate jobCounterMax (j.staleParcels + k) }
  | .numbersLost => { j with numbersLost := saturate jobCounterMax (j.numbersLost + k) }
  | .sectionsCompleted => { j with sectionsCompleted := saturate jobCounterMax (j.sectionsCompleted + k) }
  | .sectionsAbandoned => { j with sectionsAbandoned := saturate jobCounterMax (j.sectionsAbandoned + k) }
  | .blocksWritten => { j with blocksWritten := saturate jobCounterMax (j.blocksWritten + k) }
  | .blocksFilled => { j with blocksFilled := saturate jobCounterMax (j.blocksFilled + k) }
  | .digestMismatches => { j with digestMismatches := saturate jobCounterMax (j.digestMismatches + k) }
  | .stalls => { j with stalls := saturate jobCounterMax (j.stalls + k) }

/-- JC takes the report of a counted event; in ABORTING it discards it (R4, R18). -/
def Job.count (c : JobCounter) (k : Nat) (j : Job) : Job :=
  if j.phase = .aborting then j else { j with counters := j.counters.add c k }

/-! ### The literal ring (R83) -/

/-- The empty ring. -/
def Ring.empty : Ring := ⟨0, []⟩

/-- The ring place that the next byte written takes. -/
def Ring.tailPlace (r : Ring) : Nat := (r.head + r.bytes.length) % Config.ringBytes

/-- A byte written at the tail. -/
def Ring.push (b : Byte) (r : Ring) : Ring := { r with bytes := r.bytes ++ [b] }

/-- The bytes at a ring place. -/
def Ring.slice (r : Ring) (place length : Nat) : Bytes :=
  (r.bytes.drop ((place + Config.ringBytes - r.head) % Config.ringBytes)).take length

/-- The oldest bytes freed. -/
def Ring.freeOldest (n : Nat) (r : Ring) : Ring :=
  ⟨(r.head + n) % Config.ringBytes, r.bytes.drop n⟩

/-- The newest bytes freed: uncommitted bytes of a dropped record. -/
def Ring.freeNewest (n : Nat) (r : Ring) : Ring :=
  { r with bytes := r.bytes.take (r.bytes.length - n) }

/-- The ring bytes a BLOCK item holds (R82). -/
def BlockItem.ringHeld (i : BlockItem) : Nat :=
  match i.directive with
  | .literal _ => Config.blockBytes
  | .copyKeep | .copyNew _ | .self _ | .fill _ => (i.edits.map (fun e => e.length)).sum

end Sys2Proof.Machine
end

