-- ==== Sys2Proof/Machine/Flags.lean ====
section
/-! DEFINITION. The conditions and codes the spec computes from state: idle, quiet, starved and blocked, the job-state test, the
code tables, and the bytes of replies and notices. -/

namespace Sys2Proof.Machine

/-! ### Codes (R183) -/

/-- The job state's code; NONE is 0. -/
def JobPhase.code : JobPhase → Byte
  | .ready => 1 | .running => 2 | .stopping => 3 | .quiescing => 4 | .faulted => 5 | .servicing => 6 | .closing => 7
  | .closed => 8 | .aborting => 9

/-- The coverage state's code. -/
def Coverage.code : Coverage → Byte
  | .empty => 0 | .written => 1 | .verified => 2 | .carried => 3 | .suspect => 4 | .waived => 5

/-- The stop reason's code. -/
def StopReason.code : StopReason → Byte
  | .limit => 1 | .pause => 2 | .endOfImage => 3

/-- The verdict's code. -/
def Verdict.code : Verdict → Byte
  | .taken => 0 | .duplicate => 1 | .late => 2 | .ahead => 3 | .stale => 4

/-- The fault code's value (R139). -/
def FaultCode.code : FaultCode → Byte
  | .badEscape => 0x01 | .badMarker => 0x02 | .badHeader => 0x03 | .sectionRange => 0x04 | .badDirective => 0x05
  | .badIncrement => 0x06 | .blockOverrun => 0x07 | .editOverrun => 0x08 | .unexpectedMarker => 0x09
  | .expectedMarker => 0x0A | .endMismatch => 0x0B | .sourceRange => 0x20 | .selfSource => 0x21
  | .skipWithoutSource => 0x22 | .storeCheck => 0x23

/-- The origin that the fault code fixes (R139). -/
def FaultCode.origin : FaultCode → FaultOrigin
  | .badEscape | .badMarker | .badHeader | .sectionRange | .badDirective | .badIncrement | .blockOverrun | .editOverrun
  | .unexpectedMarker | .expectedMarker | .endMismatch => .decoder
  | .sourceRange | .selfSource | .skipWithoutSource | .storeCheck => .reconstruction

/-- The fault origin's code. -/
def FaultOrigin.code : FaultOrigin → Byte
  | .decoder => 1 | .reconstruction => 2

/-- The STALL cause's code. -/
def StallCause.code : StallCause → Byte
  | .verifyWait => 1 | .gapWait => 2 | .starved => 3 | .hunting => 4 | .other => 5

/-- The READY cause's code. -/
def ReadyCause.code : ReadyCause → Byte
  | .powerOn => 1 | .pin => 2

/-- The reply status's code. -/
def ReplyStatus.code : ReplyStatus → Byte
  | .ok => 0x00 | .started => 0x01 | .notReady => 0x10 | .noJob => 0x11 | .wrongState => 0x12 | .busy => 0x13
  | .badParam => 0x14 | .badLength => 0x15 | .unknownRequest => 0x16 | .locked => 0x17 | .checkFailed => 0x18
  | .incomplete => 0x19

/-- The notice's code. -/
def Notice.code : Notice → Byte
  | .ready _ => 0x80 | .stopped _ _ _ _ => 0x81 | .fault _ _ => 0x82 | .gap _ _ _ _ => 0x83 | .mismatch _ _ _ _ _ => 0x84
  | .stall _ _ _ _ _ _ => 0x85 | .fillDone _ _ => 0x86 | .scanDone _ _ _ => 0x87 | .repairOverflow _ _ _ => 0x88
  | .closed _ _ _ => 0x89 | .closeMismatch _ _ _ => 0x8A | .closeCheck _ _ => 0x8A | .aborted _ => 0x8B
  | .noticeOverflow _ => 0x8C

/-! ### Conditions over the job -/

/-- Whether the job is in a run (RUNNING or STOPPING): timers may run and items are taken (R7). -/
def JobPhase.inRun : JobPhase → Bool
  | .running | .stopping => true
  | .ready | .quiescing | .faulted | .servicing | .closing | .closed | .aborting => false

/-- HUNT or SECTION, as STATUS reports it (section 5.3): true is SECTION. -/
def SubPosition.inSection : SubPosition → Bool
  | .seeking | .endBody => false
  | .header | .lead | .directive | .trailer | .markerExpected => true

/-- The parcel held for a number (section 4.2). -/
def Window.held? (w : Window) (s : Word16) : Option Parcel :=
  match w.slots.getD (s.toNat % Config.windowSlots) none with
  | some p => if p.sequence = s then some p else none
  | none => none

/-- The held parcel count (section 4.2). -/
def Window.heldCount (w : Window) : Nat := (w.slots.filter Option.isSome).length

/-- The free slot count (section 4.2). -/
def Window.freeCount (w : Window) : Nat := Config.windowSlots - w.heldCount

/-- Whether a gap stands: no parcel for B while a later parcel is held (section 4.5). -/
def Window.gap (w : Window) : Bool := (w.held? w.base).isNone && decide (0 < w.heldCount)

/-- RU is idle, in the sense of R14 and R97. -/
def ReconUnit.isIdle (u : ReconUnit) : Bool := u.activity == .idle

/-- RU is quiet: IDLE or HALTED with no store request, waiting or outstanding (R97, R144). -/
def ReconUnit.isQuiet (u : ReconUnit) (outstanding : Bool) : Bool :=
  (u.activity == .idle || u.activity == .halted) && u.waiting.isNone && !outstanding

/-- VE is idle: no task, no close operation and no store request (R124). -/
def Verifier.isIdle (v : Verifier) (outstanding : Bool) : Bool :=
  v.tasks.isEmpty && v.close.isNone && v.waiting.isNone && !outstanding

/-- SD is starved (R88). -/
def Job.starved (j : Job) : Bool :=
  j.decoder.running && j.decoder.waitingOutput.isEmpty && j.decoder.waitingBytes.isEmpty
    && (j.window.held? j.window.base).isNone

/-- SD may take a byte from the window (R80). -/
def Job.canTakeByte (j : Job) : Bool :=
  j.decoder.running && j.decoder.waitingOutput.isEmpty && j.decoder.waitingBytes.isEmpty
    && (j.window.held? j.window.base).isSome

/-- The conditions of the stop drain (R14). -/
def Job.drained (j : Job) : Bool := !j.decoder.running && j.queue.isEmpty && j.unit.isIdle

/-- The conditions of the quiesce (R144). -/
def Job.quiesced (j : Job) (unitOutstanding : Bool) : Bool :=
  !j.decoder.running && j.decoderQuiet && j.unit.isQuiet unitOutstanding

/-- The bytes of a base block lie inside the base region (R105). -/
def Descriptor.hasBase (d : Descriptor) (relative : Int) : Bool :=
  decide (0 ≤ relative) && decide (relative < d.baseLength)

/-- The write lock: the block lies in the base or the target region of an existing job (R160). -/
def Descriptor.locks (d : Descriptor) (index : Nat) : Bool :=
  (decide (d.baseFirst ≤ index) && decide (index < d.baseFirst + d.baseLength))
    || (decide (d.targetFirst ≤ index) && decide (index < d.targetFirst + d.targetLength))

/-- Whether a block is locked against the host (R160). -/
def State.locked (s : State) (index : Nat) : Bool :=
  match s.job with
  | some j => j.descriptor.locks index
  | none => false

/-! ### The job-state test of R9 -/

/-- The twelve job-level requests, grouped as the rows of R9's table. -/
inductive JobRequest where
  | loadJob
  /-- RUN, FILL, REPAIR_SCAN, WAIVE and CLOSE_IMAGE, whose rows are the same. -/
  | readyOnly
  | pause
  | recover
  | abort
  | parcel
  /-- GET_MAP and GET_REPAIRS. -/
  | account
  deriving DecidableEq, Repr

/-- The refusal that R9 gives a request in a job state, or none where it is taken. -/
def jobTest (r : JobRequest) (phase : Option JobPhase) : Option ReplyStatus :=
  match r, phase with
  | .loadJob, none => none
  | .loadJob, some _ => some .wrongState
  | .readyOnly, none => some .noJob
  | .readyOnly, some .ready => none
  | .readyOnly, some .faulted => some .wrongState
  | .readyOnly, some .closed => some .wrongState
  | .readyOnly, some _ => some .busy
  | .pause, none => some .noJob
  | .pause, some .running => none
  | .pause, some .stopping => none
  | .pause, some .ready => some .wrongState
  | .pause, some .faulted => some .wrongState
  | .pause, some .closed => some .wrongState
  | .pause, some _ => some .busy
  | .recover, none => some .noJob
  | .recover, some .faulted => none
  | .recover, some .ready => some .wrongState
  | .recover, some .closed => some .wrongState
  | .recover, some _ => some .busy
  | .abort, none => some .noJob
  | .abort, some .aborting => some .busy
  | .abort, some _ => none
  | .parcel, none => some .noJob
  | .parcel, some .closing => some .wrongState
  | .parcel, some .closed => some .wrongState
  | .parcel, some .aborting => some .wrongState
  | .parcel, some _ => none
  | .account, none => some .noJob
  | .account, some _ => none

/-! ### The bytes of replies, notices and frames (R182, R186, R187) -/

/-- A job counter table in the order of R4, four bytes each. -/
def JobCounters.bytes (c : JobCounters) : Bytes :=
  le32 c.parcelsTaken ++ le32 c.duplicates ++ le32 c.lateParcels ++ le32 c.staleParcels ++ le32 c.numbersLost
    ++ le32 c.sectionsCompleted ++ le32 c.sectionsAbandoned ++ le32 c.blocksWritten ++ le32 c.blocksFilled
    ++ le32 c.digestMismatches ++ le32 c.stalls

/-- The link counters, two bytes each. -/
def LinkErrors.bytes (e : LinkErrors) : Bytes :=
  le16 e.length ++ le16 e.gap ++ le16 e.crc ++ le16 e.kind ++ le16 e.tag ++ le16 e.overrun

/-- A number that may be absent; absent is sent as zero (R188). -/
def orZero (o : Option Nat) : Nat := o.getD 0

/-- The STATUS fault fields, offsets 10 to 20 (R186). -/
def statusFaultBytes (r : Option FaultRecord) : Bytes :=
  match r with
  | none => List.replicate 11 0
  | some f =>
    [f.code.code, f.code.origin.code] ++ le16 (orZero (f.inSection?.map BitVec.toNat)) ++ le16 (orZero f.block?)
      ++ le16 (orZero (f.place?.map (fun p => p.sequence.toNat))) ++ le16 (orZero (f.place?.map (fun p => p.offset)))
      ++ le8 f.secondary

/-- The presence byte of a STATUS body (R186). -/
def JobStatus.presence (j : JobStatus) : Nat :=
  1 + (if j.stopReason.isSome then 2 else 0) + (if j.faultRecord.isSome then 4 else 0)
    + (if j.endRecord.digest.isSome then 8 else 0)
    + (if (j.faultRecord.bind (fun f => f.inSection?)).isSome then 16 else 0)
    + (if (j.faultRecord.bind (fun f => f.block?)).isSome then 32 else 0)

/-- The 92 bytes of a STATUS body (R186). -/
def StatusSnapshot.bytes (s : StatusSnapshot) : Bytes :=
  (match s.job with
  | none => List.replicate 79 0
  | some j =>
    [j.phase.code] ++ le8 j.presence ++ le16 j.jobId.toNat
      ++ [match j.stopReason with | some r => r.code | none => 0] ++ [flagByte j.endRecord.seen]
      ++ le32 (orZero (j.endRecord.digest.map BitVec.toNat)) ++ statusFaultBytes j.faultRecord ++ j.counters.bytes
      ++ [flagByte j.decoderRunning, flagByte j.inSection] ++ le16 j.frontier ++ le8 j.repairCount ++ [flagByte j.overflow]
      ++ le16 j.windowBase.toNat ++ le8 j.heldParcels ++ le8 j.queuedItems ++ le16 j.ringHeld ++ le8 j.tasksHeld
      ++ [flagByte j.taskInProgress])
  ++ s.errors.bytes ++ le8 s.dropped

/-- A range as two fields of two bytes (R186). -/
def BlockRange.bytes (r : BlockRange) : Bytes := le16 r.first ++ le16 r.count

/-- The body of a reply (R186). -/
def ReplyBody.bytes : ReplyBody → Bytes
  | .empty => []
  | .badField n => le8 n
  | .unmet condition value state => le8 condition ++ le16 value ++ [state.code]
  | .identity => le16 0x4E5A ++ le16 0x7140 ++ le8 2 ++ le16 4096 ++ le16 512 ++ le8 16 ++ le8 16 ++ le8 32
  | .status s => s.bytes
  | .parcel verdict base free => [verdict.code] ++ le16 base.toNat ++ le8 free
  | .map first count frontier states => le16 first ++ le16 count ++ le16 frontier ++ states.map Coverage.code
  | .repairs frontier overflow ranges =>
      le16 frontier ++ [flagByte overflow] ++ le8 ranges.length ++ ranges.flatMap BlockRange.bytes
  | .waived done left => le16 done ++ le16 left
  | .blockRead index content => le16 index ++ content
  | .blockIndex index => le16 index
  | .acked removed held => le8 removed ++ le8 held
  | .replayed count => le8 count

/-- The presence byte of a FAULT notice (R187). -/
def FaultRecord.presence (f : FaultRecord) : Nat :=
  (if f.inSection?.isSome then 1 else 0) + (if f.block?.isSome then 2 else 0)

/-- A run count as a STOPPED notice carries it: in two bytes, limited to 65535 (R188). -/
def runCountBytes (count : Nat) : Bytes := le16 (min count 65535)

/-- The body of a notice (R187, R188). -/
def Notice.bytes : Notice → Bytes
  | .ready cause => [cause.code]
  | .stopped job reason blocks sections =>
      le16 job.toNat ++ [reason.code] ++ runCountBytes blocks ++ runCountBytes sections
  | .fault job f =>
      le16 job.toNat ++ le8 f.presence ++ [f.code.code, f.code.origin.code] ++ le16 (orZero (f.inSection?.map BitVec.toNat))
        ++ le16 (orZero f.block?) ++ le16 (orZero (f.place?.map (fun p => p.sequence.toNat)))
        ++ le16 (orZero (f.place?.map (fun p => p.offset))) ++ le8 f.secondary
  | .gap job first count base => le16 job.toNat ++ le16 first.toNat ++ le8 count ++ le16 base.toNat
  | .mismatch job number start count failing =>
      le16 job.toNat ++ le16 number.toNat ++ le16 start ++ le8 count ++ [if failing.isSome then 2 else 1]
        ++ le16 (orZero failing)
  | .stall job cause frontier base held queued =>
      le16 job.toNat ++ [cause.code] ++ le16 frontier ++ le16 base.toNat ++ le8 held ++ le8 queued
  | .fillDone job filled => le16 job.toNat ++ le16 filled
  | .scanDone job ranges overflow => le16 job.toNat ++ le8 ranges ++ [flagByte overflow]
  | .repairOverflow job range ranges => le16 job.toNat ++ range.bytes ++ le8 ranges
  | .closed job targetLength digest => le16 job.toNat ++ le16 targetLength ++ le32 digest.toNat
  | .closeMismatch job computed expected => le16 job.toNat ++ [1] ++ le32 computed.toNat ++ le32 expected.toNat ++ le16 0
  | .closeCheck job block => le16 job.toNat ++ [2] ++ le32 0 ++ le32 0 ++ le16 block
  | .aborted job => le16 job.toNat
  | .noticeOverflow dropped => le8 dropped

/-- A frame: start byte, body length, kind, tag, code, body and CRC-16 (R182). -/
def frameBytes (kind tag code : Byte) (body : Bytes) : Bytes :=
  let fields := le16 body.length ++ [kind, tag, code] ++ body
  [0xB5] ++ fields ++ le16 (crc16 fields).toNat

/-- The bytes of the frame being sent (R173, R174, R182). -/
def TxFrame.bytes : TxFrame → Bytes
  | .reply r => frameBytes 0x02 r.tag r.status.code r.body.bytes
  | .notice n sequence => frameBytes 0x03 sequence n.code n.bytes

end Sys2Proof.Machine
end

