-- ==== Sys2Proof/Machine/Coverage.lean ====
section
/-! DEFINITION. CT: the block map, the frontier, the repair list and its overflow flag, and the repair scan
(02_block_map_and_repair_list.md). Each operation answers the new account and, when the overflow flag goes from clear to
set, the range that REPAIR_OVERFLOW names (R34). -/

namespace Sys2Proof.Machine

/-- An account with the range that a REPAIR_OVERFLOW of this step names, if the flag went from clear to set. -/
structure Account where
  tracker : Tracker
  overflowed : Option BlockRange
  deriving DecidableEq, Repr

/-- The block just past a range. -/
def BlockRange.stop (r : BlockRange) : Nat := r.first + r.count

/-- Whether a range holds a block (R30). -/
def BlockRange.holds (r : BlockRange) (b : Nat) : Bool := decide (r.first ≤ b) && decide (b < r.stop)

/-- Whether a block in this state belongs on the repair list when below F (section 2.1). -/
def Coverage.listable : Coverage → Bool
  | .empty | .carried | .suspect => true
  | .written | .verified | .waived => false

/-- The coverage state of a target block; blocks at or above F are EMPTY (R22, R24). -/
def Tracker.state (t : Tracker) (b : Nat) : Coverage := t.map.getD b .empty

/-- The map with one block's state set. -/
def Tracker.setState (b : Nat) (c : Coverage) (t : Tracker) : Tracker := { t with map := t.map.set b c }

/-- A map changed block by block, counting from an index. -/
def mapStates (f : Nat → Coverage → Coverage) : Nat → List Coverage → List Coverage
  | _, [] => []
  | i, c :: rest => f i c :: mapStates f (i + 1) rest

/-- The map with every block of a range changed. -/
def Tracker.mapRange (r : BlockRange) (f : Coverage → Coverage) (t : Tracker) : Tracker :=
  { t with map := mapStates (fun i c => if r.holds i then f c else c) 0 t.map }

/-- The overflow flag is set (R34). -/
def Tracker.setOverflow (r : BlockRange) (t : Tracker) : Account :=
  if t.overflow then ⟨t, none⟩ else ⟨{ t with overflow := true }, some r⟩

/-- Whether a listed range overlaps a new one or is adjacent to it (R31 step 1). -/
def BlockRange.touches (new old : BlockRange) : Bool := decide (old.first ≤ new.stop) && decide (new.first ≤ old.stop)

/-- The single range from the lowest first block to the highest last block of two (R31 step 2). -/
def BlockRange.join (a b : BlockRange) : BlockRange :=
  ⟨min a.first b.first, max a.stop b.stop - min a.first b.first⟩

/-- A list of ranges with one more, merged with those it touches (R31 steps 1 to 3). -/
def mergeRange (r : BlockRange) (rs : List BlockRange) : List BlockRange :=
  rs.filter (fun x => x.stop < r.first) ++ [(rs.filter r.touches).foldl BlockRange.join r]
    ++ rs.filter (fun x => r.stop < x.first)

/-- CT adds a range (R31); a range has at least one block (R30). -/
def Tracker.addRange (r : BlockRange) (t : Tracker) : Account :=
  if r.count = 0 then ⟨t, none⟩
  else if t.repairs.any r.touches || decide (t.repairs.length < Config.repairRanges) then
    ⟨{ t with repairs := mergeRange r t.repairs }, none⟩
  else t.setOverflow r

/-- The parts of a range that stay when a block leaves it (R32). -/
def BlockRange.without (r : BlockRange) (b : Nat) : List BlockRange :=
  (if r.first < b then [⟨r.first, b - r.first⟩] else []) ++ (if b + 1 < r.stop then [⟨b + 1, r.stop - (b + 1)⟩] else [])

/-- The ranges with the block taken out of the one that holds it. -/
def removeFrom (b : Nat) : List BlockRange → List BlockRange
  | [] => []
  | r :: rest => if r.holds b then r.without b ++ rest else r :: removeFrom b rest

/-- The ranges with only the lower part of a split kept (R33). -/
def removeKeepingLower (b : Nat) : List BlockRange → List BlockRange
  | [] => []
  | r :: rest => if r.holds b then (r.without b).take 1 ++ rest else r :: removeKeepingLower b rest

/-- CT removes a block from the list (R32, R33). -/
def Tracker.removeBlock (b : Nat) (t : Tracker) : Account :=
  match t.repairs.find? (fun r => r.holds b) with
  | none => ⟨t, none⟩
  | some r =>
    if (r.without b).length = 2 ∧ Config.repairRanges ≤ t.repairs.length then
      ({ t with repairs := removeKeepingLower b t.repairs }).setOverflow ⟨b + 1, r.stop - (b + 1)⟩
    else ⟨{ t with repairs := removeFrom b t.repairs }, none⟩

/-- Blocks removed one at a time, in ascending order (R35). -/
def Tracker.removeBlocks (bs : List Nat) (t : Tracker) : Account :=
  bs.foldl (fun a b =>
    let step := a.tracker.removeBlock b
    ⟨step.tracker, a.overflowed <|> step.overflowed⟩) ⟨t, none⟩

/-- The blocks of a range, ascending. -/
def BlockRange.blocks (r : BlockRange) : List Nat := (List.range r.count).map (fun i => r.first + i)

/-- A write report (R26). -/
def Tracker.writeReport (b : Nat) (tainted : Bool) (t : Tracker) : Account :=
  let t := t.setState b (if tainted then .suspect else .written)
  let t := if t.frontier ≤ b then { t with frontier := b + 1 } else t
  if tainted then
    if t.repairs.any (fun r => r.holds b) then ⟨t, none⟩ else t.addRange ⟨b, 1⟩
  else t.removeBlock b

/-- A fill report (R27). -/
def Tracker.fillReport (b : Nat) (final : Bool) (t : Tracker) : Account :=
  let t := t.setState b (if final then .waived else .carried)
  if final then t.removeBlock b
  else if t.repairs.any (fun r => r.holds b) then ⟨t, none⟩ else t.addRange ⟨b, 1⟩

/-- A hole request (R25): the hole found, empty when S is not above F. -/
def Tracker.holeRequest (start : Nat) (t : Tracker) : Account × BlockRange :=
  if t.frontier < start then
    let hole : BlockRange := ⟨t.frontier, start - t.frontier⟩
    let a := t.addRange hole
    ({ a with tracker := { a.tracker with frontier := start } }, hole)
  else (⟨t, none⟩, ⟨start, 0⟩)

/-- How a digest task ends (R28). -/
inductive TaskOutcome where
  | isMatch
  | mismatch
  /-- A check failure on this target block. -/
  | check (block : Nat)
  deriving DecidableEq, Repr

/-- A scan whose walk starts again (R40). -/
def Scan.restart (sc : Scan) : Scan := { sc with position := 0, ranges := [], foundMore := false }

/-- The walk of a scan starts again when a result changed the state of a block below its position (R40). -/
def Tracker.restartScan (before : List Coverage) (t : Tracker) : Tracker :=
  match t.scan with
  | none => t
  | some sc => if before.take sc.position = t.map.take sc.position then t else { t with scan := some sc.restart }

/-- A section result (R28, R35, R40). -/
def Tracker.sectionResult (start count : Nat) (outcome : TaskOutcome) (t : Tracker) : Account :=
  let r : BlockRange := ⟨start, count⟩
  let a := match outcome with
    | .isMatch => (t.mapRange r (fun _ => .verified)).removeBlocks r.blocks
    | .mismatch | .check _ => (t.mapRange r (fun _ => .suspect)).addRange r
  { a with tracker := a.tracker.restartScan t.map }

/-- A close result that matches: every block becomes VERIFIED (R29, R35). -/
def Tracker.closeMatch (t : Tracker) : Account :=
  ({ t with map := t.map.map (fun _ => .verified) }).removeBlocks (List.range t.map.length)

/-- A close result that is a check failure on a block (R29). -/
def Tracker.closeCheck (b : Nat) (t : Tracker) : Account := (t.setState b .suspect).addRange ⟨b, 1⟩

/-- WAIVE's change of one state (R38). -/
def Coverage.waive : Coverage → Coverage
  | .carried | .suspect => .waived
  | .empty => .empty
  | .written => .written
  | .verified => .verified
  | .waived => .waived

/-- The blocks of a range that WAIVE moves to WAIVED: the CARRIED and SUSPECT ones (R38). -/
def Tracker.waivable (r : BlockRange) (t : Tracker) : List Nat :=
  r.blocks.filter (fun b => t.state b == .carried || t.state b == .suspect)

/-- The EMPTY blocks of a range (R38). -/
def Tracker.emptyIn (r : BlockRange) (t : Tracker) : List Nat := r.blocks.filter (fun b => t.state b == .empty)

/-- WAIVE over a range (R38, R35). -/
def Tracker.waive (r : BlockRange) (t : Tracker) : Account :=
  (t.mapRange r Coverage.waive).removeBlocks (t.waivable r)

/-- REPAIR_SCAN is accepted: the walk is at its beginning (R39). -/
def Tracker.startScan (t : Tracker) : Tracker := { t with scan := some ⟨0, [], false⟩ }

/-- The last range of a scan list lengthened by one. -/
def extendLast : List BlockRange → List BlockRange
  | [] => []
  | [r] => [⟨r.first, r.count + 1⟩]
  | r :: s :: rest => r :: extendLast (s :: rest)

/-- Whether block p − 1 was visited and found listable: the last range of the scan list ends at p (R39). -/
def Scan.continues (sc : Scan) : Bool :=
  match sc.ranges.getLast? with
  | some r => r.stop == sc.position
  | none => false

/-- One visit of the walk (R39). -/
def Scan.visit (c : Coverage) (sc : Scan) : Scan :=
  if !c.listable then { sc with position := sc.position + 1 }
  else if sc.continues then { sc with position := sc.position + 1, ranges := extendLast sc.ranges }
  else if sc.ranges.length < Config.repairRanges then
    { sc with position := sc.position + 1, ranges := sc.ranges ++ [⟨sc.position, 1⟩] }
  else { sc with foundMore := true }

/-- The walk ends: the scan list replaces the repair list and the overflow flag is settled (R41). -/
def Tracker.completeScan (sc : Scan) (t : Tracker) : Account :=
  let t := { t with repairs := sc.ranges, scan := none }
  if sc.foundMore then t.setOverflow ⟨sc.position, 1⟩ else ⟨{ t with overflow := false }, none⟩

/-- What a step of the scan comes to: the walk goes on, or ends in this step (R39, R41). -/
inductive ScanStep where
  | goesOn (tracker : Tracker)
  | ends (account : Account)
  deriving DecidableEq, Repr

/-- One step of the scan: the visit of block p when p is below F, and the end when p reaches F or the found-more mark is set. -/
def Tracker.scanStep (sc : Scan) (t : Tracker) : ScanStep :=
  let sc := if sc.position < t.frontier then sc.visit (t.state sc.position) else sc
  if sc.foundMore ∨ t.frontier ≤ sc.position then .ends (t.completeScan sc) else .goesOn { t with scan := some sc }

/-- CT takes a report in an event: the account is kept, and REPAIR_OVERFLOW is posted when the flag went from clear to set,
but not in ABORTING (R34, R43). The range count it carries is 32, the count at which the flag is set, also where the same event takes
further blocks off the list (R34). -/
def Work.account (a : Account) (w : Work) : Work :=
  let w := w.map (fun j => { j with tracker := a.tracker })
  match a.overflowed with
  | some r =>
    if w.job.phase = .aborting then w
    else w.post (.repairOverflow w.job.descriptor.jobId r Config.repairRanges)
  | none => w

end Sys2Proof.Machine
end

