-- ==== Sys2Proof/Machine/Window.lean ====
section
/-! DEFINITION. PW: verdicts, slots, consumption, gap skipping and the gap hold timer (04_parcel_intake_and_reordering.md); and the
rule that stops both job timers when the job leaves the run states. -/

namespace Sys2Proof.Machine

/-- The window of a new job (R59). -/
def Window.start (first : Word16) : Window where
  base := first
  slots := List.replicate Config.windowSlots none
  readOffset := 0
  history := []
  gapTimer := .idle

/-- The distance from B up to a number, modulo 65536 (R61). -/
def Window.distance (w : Window) (s : Word16) : Nat := (s - w.base).toNat

/-- PW's verdict on a parcel (R61). -/
def Window.verdict (w : Window) (s : Word16) : Verdict :=
  let k := w.distance s
  if k < Config.windowSlots then if (w.held? s).isSome then .duplicate else .taken
  else if k ≤ 32767 then .ahead
  else if k < 65536 - Config.historyLength then .stale
  else match w.history[65536 - k - 1]? with
    | some .consumed => .duplicate
    | some .lost => .late
    | none => .stale

/-- A parcel stored in its slot (R62). -/
def Window.store (p : Parcel) (w : Window) : Window :=
  { w with
    slots := w.slots.set (p.sequence.toNat % Config.windowSlots) (some p)
    readOffset := if p.sequence = w.base then 0 else w.readOffset }

/-- The history with the fates of numbers just passed, newest first, trimmed (R68). -/
def Window.remember (fates : List Fate) (w : Window) : List Fate := (fates ++ w.history).take Config.historyLength

/-- The parcel at B has been consumed (R67). -/
def Window.consume (w : Window) : Window :=
  { w with
    slots := w.slots.set (w.base.toNat % Config.windowSlots) none
    history := w.remember [.consumed]
    base := w.base + 1
    readOffset := 0 }

/-- SD takes the byte offered (R66, R67): the byte with its place, and the window after it. -/
def Window.takeByte (w : Window) : Option (StreamByte × Window) :=
  match w.held? w.base with
  | none => none
  | some p =>
    match p.payload[w.readOffset]? with
    | none => none
    | some b =>
      some (⟨b, ⟨w.base, w.readOffset⟩⟩,
        if w.readOffset + 1 < p.payload.length then { w with readOffset := w.readOffset + 1 } else w.consume)

/-- How far above B the lowest held parcel lies (R71). -/
def Window.lowestHeld (w : Window) : Option Nat :=
  (List.range Config.windowSlots).find? (fun k => (w.held? (w.base + BitVec.ofNat 16 k)).isSome)

/-- The gap of a count of numbers is skipped (R71). -/
def Window.skip (count : Nat) (w : Window) : Window :=
  { w with
    history := w.remember (List.replicate count .lost)
    base := w.base + BitVec.ofNat 16 count
    readOffset := 0
    gapTimer := .idle }

/-- The job counter that a verdict raises (R65). -/
def Verdict.counter : Verdict → Option JobCounter
  | .taken => some .parcelsTaken
  | .duplicate => some .duplicates
  | .late => some .lateParcels
  | .stale => some .staleParcels
  | .ahead => none

/-- The gap hold timer after an event: it runs exactly while the three conditions of R70 hold, from the full gap hold value at
the event that makes them hold. -/
def Job.settleGapTimer (j : Job) : Job :=
  { j with window := { j.window with gapTimer :=
      if j.phase.inRun && j.window.gap then
        match j.window.gapTimer with
        | .running ms => .running ms
        | .idle => .running j.descriptor.gapHold
      else .idle } }

/-- The progress monitor after an event: stopped outside RUNNING and STOPPING (R119). -/
def Job.settleMonitor (j : Job) : Job :=
  if j.phase.inRun then j else { j with unit := { j.unit with monitor := .stopped } }

/-- Both timers after an event. -/
def Job.settleTimers (j : Job) : Job := j.settleGapTimer.settleMonitor

/-- PW takes a PARCEL (R61 to R65, R70). -/
def Job.takeParcel (p : Parcel) (j : Job) : Job × Verdict :=
  let v := j.window.verdict p.sequence
  let j := if v = .taken then { j with window := j.window.store p } else j
  let j := match v.counter with
    | some c => j.count c 1
    | none => j
  (j.settleGapTimer, v)

end Sys2Proof.Machine
end

