-- ==== Sys2Proof/Machine/Control.lean ====
section
/-! DEFINITION. JC: the reports it takes and the tests it makes at the end of an event: the stop drain, the quiesce and the ABORT
teardown (01_reconstruction_jobs.md, 08_faults_quiescence_and_recovery.md). -/

namespace Sys2Proof.Machine

/-- No signal given (R2: a new job has no operation in progress). -/
def Signals.clear : Signals := ⟨false, false, false, false, false, false, false⟩

/-- JC takes a stop report of SD (R12, R143). -/
def Job.reportStop (reason : StopReason) (j : Job) : Job :=
  if j.phase = .running then { j with phase := .stopping, stopReason := some reason } else j

/-- The record of a first fault (R140). -/
def FaultRecord.first (code : FaultCode) (inSection? : Option Word16) (block? : Option Nat) (place? : Option StreamPlace) :
    FaultRecord := ⟨code, inSection?, block?, place?, 0⟩

/-- A secondary fault counted in the record (R142). -/
def FaultRecord.countSecondary (r : FaultRecord) : FaultRecord :=
  { r with secondary := saturate byteCounterMax (r.secondary + 1) }

/-- JC takes a fault report: the first fault of the run, a secondary fault, or discarded (R140, R141, R142). -/
def Job.reportFault (r : FaultRecord) (j : Job) : Job :=
  match j.phase with
  | .running | .stopping =>
    { j with
      phase := .quiescing
      faultRecord := some r
      decoderQuiet := false
      signals := { j.signals with halt := true, quiescing := true } }
  | .quiescing => { j with faultRecord := j.faultRecord.map FaultRecord.countSecondary }
  | .ready | .faulted | .servicing | .closing | .closed | .aborting => j

/-- JC records the image digest that RU reports, unless ABORTING (R5, R18). -/
def Job.recordEnd (digest : Word32) (j : Job) : Job :=
  if j.phase = .aborting then j else { j with endRecord := ⟨true, some digest⟩ }

/-- The stop drain: a drained STOPPING job returns to READY and STOPPED is posted (R14). -/
def Work.testDrain (w : Work) : Work :=
  if w.job.phase = .stopping ∧ w.job.drained = true then
    let w' := w.map (fun j => { j with phase := .ready })
    match w.job.stopReason with
    | some r =>
      w'.post (.stopped w.job.descriptor.jobId r w.job.decoder.blocksCovered w.job.decoder.sectionsCompleted)
    | none => w'
  else w

/-- The quiesce: a QUIESCING job with SD and RU quiet enters FAULTED and FAULT is posted (R144, R145). -/
def Work.testQuiesce (unitOutstanding : Bool) (w : Work) : Work :=
  if w.job.phase = .quiescing ∧ w.job.quiesced unitOutstanding = true then
    let w' := w.map (fun j => { j with phase := .faulted })
    match w.job.faultRecord with
    | some r => w'.post (.fault w.job.descriptor.jobId r)
    | none => w'
  else w

/-- JC's tests at the end of an event, and the timers that follow from the job state (R14, R70, R119, R144). -/
def Work.settle (unitOutstanding : Bool) (w : Work) : Work :=
  ((w.testDrain).testQuiesce unitOutstanding).map Job.settleTimers

/-- CT takes its ABORT stop: the walk and its list are discarded (R42). -/
def Job.stopScan (j : Job) : Job :=
  { j with
    signals := { j.signals with scanStop := false }
    tracker := { j.tracker with scan := none } }

/-- Whether the teardown is complete: JC holds the reports of both RU and VE (R150). -/
def Job.tornDown (j : Job) : Bool := j.phase == .aborting && j.unitClear && j.verifierClear

/-- The teardown of ABORT: when it is complete the job is removed with every part of its state, and ABORTED is posted (R150). -/
def State.teardown (s : State) : State :=
  match s.job with
  | some j => if j.tornDown then { s with job := none }.post (.aborted j.descriptor.jobId) else s
  | none => s

/-- The job's part of an event: JC's tests, the notices posted in order, and the teardown. -/
def State.settleWork (w : Work) (s : State) : State :=
  (s.finishWork (w.settle (s.store.outstanding .ru))).teardown

/-- The end of an event at the job: its part settled, and the transmit arbiter's choice. -/
def State.closeEvent (w : Work) (s : State) : State := (s.settleWork w).transmit

/-- An event at the job, when the job meets its condition; otherwise it has no effect (log entry 1). -/
def State.atJobWhen (p : Job → Bool) (f : Job → Work) (s : State) : State :=
  match s.job with
  | some j => if p j then s.closeEvent (f j) else s
  | none => s

/-- An event that posts no notice of its own. -/
def quietly (f : Job → Job) (j : Job) : Work := ⟨f j, []⟩

/-- A notice that stands for a report to JC: not posted in ABORTING (R18). -/
def Work.report (n : Notice) (w : Work) : Work := if w.job.phase = .aborting then w else w.post n

end Sys2Proof.Machine
end

