-- ==== Sys2Proof/Machine/Decoder.lean ====
section
/-! DEFINITION. SD: destuffing, the stream grammar, item production, pushes, limits, stops, faults and the discontinuity
(03_the_patch_stream.md, 05_stream_decoder.md). -/

namespace Sys2Proof.Machine

/-- SD at LOAD_JOB (R78). -/
def Decoder.start : Decoder where
  running := false
  limit := none
  blocksCovered := 0
  sectionsCompleted := 0
  position := .seeking
  escape := .clear
  waitingBytes := []
  record := .nothing
  context := none
  waitingOutput := []
  faultMark := false

/-! ### The escape match (R46) -/

/-- What a parcel byte comes to in the escape match. -/
inductive EscapeOutcome where
  /-- Stream bytes delivered, none to two, and the new escape state. -/
  | deliver (state : Escape) (bytes : List Byte)
  /-- The kind byte of a marker start. -/
  | kindByte (kind : Byte)
  /-- A byte other than 00h or 6Bh after E7h 1Dh. -/
  | violation
  deriving DecidableEq, Repr

/-- The table of R46. -/
def Escape.step (e : Escape) (b : Byte) : EscapeOutcome :=
  match e with
  | .clear => if b = 0xE7 then .deliver .seenE7 [] else .deliver .clear [b]
  | .seenE7 =>
    if b = 0x1D then .deliver .seenE71D []
    else if b = 0xE7 then .deliver .seenE7 [0xE7]
    else .deliver .clear [0xE7, b]
  | .seenE71D =>
    if b = 0x00 then .deliver .clear [0xE7, 0x1D]
    else if b = 0x6B then .deliver .seenMarkerStart []
    else .violation
  | .seenMarkerStart => .kindByte b

/-- The escape state after a byte passed over while hunting: an E7h is examined again (R47). -/
def Escape.afterPassedOver (b : Byte) : Escape := if b = 0xE7 then .seenE7 else .clear

/-! ### The grammar (R48 to R57, R79) -/

/-- What processing a stream byte comes to. -/
inductive ParseOutcome where
  /-- The byte is taken; items are produced, in order. -/
  | done (decoder : Decoder) (ring : Ring) (items : List Item)
  /-- A data byte finds the ring full (R83). -/
  | ringFull
  /-- The byte decides a fault; the section number and target block of its report (R91). -/
  | fault (code : FaultCode) (sectionNumber : Option Word16) (block : Option Nat)
  deriving DecidableEq, Repr

/-- The sum of a record's check, the kind byte included, is 0 modulo 256 (R49, R57). -/
def checkSumOk (kind : Byte) (bytes : Bytes) : Bool := (bytes.foldl (· + ·) kind) == 0

/-- The section number that SD reports with a fault found where it stands (R91). -/
def Decoder.faultSection (d : Decoder) : Option Word16 :=
  match d.position with
  | .seeking | .endBody | .header => none
  | .lead | .directive | .trailer | .markerExpected => d.context.map (fun c => c.number)

/-- The target block that SD reports with a fault found where it stands: the directive's own block after its increment byte
(R91). -/
def Decoder.faultBlock (d : Decoder) : Option Nat :=
  match d.position, d.record with
  | .directive, .directive p => p.block?
  | _, _ => none

/-- The ring bytes of the partial record, not yet part of an item (R83). -/
def PartialRecord.uncommitted : PartialRecord → Nat
  | .nothing => 0
  | .bytes _ => 0
  | .directive p => p.uncommitted

/-- The kind of a lead byte's code (R51). -/
def DirectiveKind.ofCode (n : Nat) : Option DirectiveKind :=
  if n = 0 then some .copyKeep else if n = 1 then some .copyNew else if n = 2 then some .self
  else if n = 3 then some .literal else if n = 4 then some .fill else none

/-- Whether a kind may carry edits (R51). -/
def DirectiveKind.editable : DirectiveKind → Bool
  | .copyKeep | .copyNew | .self => true
  | .literal | .fill => false

/-- A lead byte (R51, R189). -/
def Decoder.leadByte (b : Byte) (ring : Ring) (d : Decoder) : ParseOutcome :=
  let edits := b.toNat % 32
  match DirectiveKind.ofCode (b.toNat / 32) with
  | none => .fault .badDirective d.faultSection none
  | some kind =>
    if !kind.editable ∧ edits ≠ 0 then .fault .badDirective d.faultSection none
    else .done { d with
      position := .directive
      record := .directive
        { kind, editCount := edits, increment := 0, block? := none, directive := .copyKeep, cursor := 0, edits := []
          uncommitted := 0, stage := .increment } } ring []

/-- A directive is complete: its BLOCK item, and SECTION_END too when it completes a section without a digest (R52, R79, R84). -/
def Decoder.finishDirective (c : SectionContext) (p : PartialDirective) (ring : Ring) (d : Decoder) : ParseOutcome :=
  let own := p.block?.getD 0
  let item := Item.block ⟨c.number, own, p.increment, p.directive, p.edits⟩
  if own + 1 = c.start + c.count then
    if c.hasDigest then .done { d with position := .trailer, record := .bytes [] } ring [item]
    else .done { d with position := .markerExpected, record := .nothing, context := some { c with endPushed := true } } ring
      [item, .sectionEnd c.number c.start c.count none]
  else .done { d with position := .lead, record := .nothing } ring [item]

/-- After the operand or an edit: the next edit, or the end of the directive (R55). -/
def Decoder.nextEdit (c : SectionContext) (p : PartialDirective) (ring : Ring) (d : Decoder) : ParseOutcome :=
  if p.edits.length < p.editCount then .done { d with record := .directive { p with stage := .editHead [] } } ring []
  else d.finishDirective c p ring

/-- The increment byte: it places the directive (R51, R52). -/
def Decoder.incrementByte (c : SectionContext) (p : PartialDirective) (b : Byte) (ring : Ring) (d : Decoder) : ParseOutcome :=
  let i := b.toNat
  if i < 1 ∨ 16 < i then .fault .badIncrement (some c.number) none
  else
    let own := match c.lastPlaced with
      | some l => l + i
      | none => c.start + i - 1
    if c.start + c.count ≤ own then .fault .blockOverrun (some c.number) (some own)
    else
      let c := { c with lastPlaced := some own }
      let d := { d with context := some c }
      let p := { p with increment := i, block? := some own }
      match p.kind with
      | .copyKeep => d.nextEdit c p ring
      | .copyNew | .self | .fill => .done { d with record := .directive { p with stage := .operand [] } } ring []
      | .literal => .done { d with record := .directive { p with stage := .literal ring.tailPlace 0 } } ring []

/-- A byte of the operand of COPY_NEW, SELF or FILL (R51). -/
def Decoder.operandByte (c : SectionContext) (p : PartialDirective) (got : Bytes) (ring : Ring) (d : Decoder) : ParseOutcome :=
  match p.kind with
  | .copyNew =>
    if got.length < 2 then .done { d with record := .directive { p with stage := .operand got } } ring []
    else
      let v := signed16 (fromLe got)
      if v < -2048 ∨ 2047 < v then .fault .badDirective (some c.number) p.block?
      else d.nextEdit c { p with directive := .copyNew v } ring
  | .self =>
    if got.length < 2 then .done { d with record := .directive { p with stage := .operand got } } ring []
    else
      let v := fromLe got
      if v < 1 ∨ 2047 < v then .fault .badDirective (some c.number) p.block?
      else d.nextEdit c { p with directive := .self v } ring
  | .copyKeep | .literal | .fill => d.nextEdit c { p with directive := .fill (got.getD 0 0) } ring

/-- A byte of an edit's skip or length (R55). -/
def Decoder.editHeadByte (c : SectionContext) (p : PartialDirective) (got : Bytes) (ring : Ring) (d : Decoder) : ParseOutcome :=
  let skip := field got 0 2
  let length := field got 2 1
  if got.length = 2 ∧ 511 < skip then .fault .badDirective (some c.number) p.block?
  else if got.length < 3 then .done { d with record := .directive { p with stage := .editHead got } } ring []
  else if length < 1 ∨ 64 < length then .fault .badDirective (some c.number) p.block?
  else if 512 < p.cursor + skip + length then .fault .editOverrun (some c.number) p.block?
  else .done { d with record := .directive { p with
    stage := .editData (p.cursor + skip) length ring.tailPlace 0
    cursor := p.cursor + skip + length } } ring []

/-- A byte inside a directive, its operand or its edits (R51, R55, R83). -/
def Decoder.directiveByte (c : SectionContext) (p : PartialDirective) (b : Byte) (ring : Ring) (d : Decoder) : ParseOutcome :=
  match p.stage with
  | .increment => d.incrementByte c p b ring
  | .operand got => d.operandByte c p (got ++ [b]) ring
  | .literal place taken =>
    if Config.ringBytes ≤ ring.bytes.length then .ringFull
    else
      let p := { p with uncommitted := p.uncommitted + 1 }
      if taken + 1 < Config.blockBytes then
        .done { d with record := .directive { p with stage := .literal place (taken + 1) } } (ring.push b) []
      else d.nextEdit c { p with directive := .literal place } (ring.push b)
  | .editHead got => d.editHeadByte c p (got ++ [b]) ring
  | .editData offset length place taken =>
    if Config.ringBytes ≤ ring.bytes.length then .ringFull
    else
      let p := { p with uncommitted := p.uncommitted + 1 }
      if taken + 1 < length then
        .done { d with record := .directive { p with stage := .editData offset length place (taken + 1) } } (ring.push b) []
      else d.nextEdit c { p with edits := p.edits ++ [⟨offset, length, place⟩] } (ring.push b)

/-- The bytes of the partial record. -/
def PartialRecord.got : PartialRecord → Bytes
  | .bytes got => got
  | .nothing => []
  | .directive _ => []

/-- A section header with its check byte (R49, R50). -/
def Decoder.headerDone (targetLength bandWidth : Nat) (got : Bytes) (ring : Ring) (d : Decoder) : ParseOutcome :=
  let number : Word16 := BitVec.ofNat 16 (field got 0 2)
  let start := field got 2 2
  let count := field got 4 1
  let flags := field got 5 1
  if checkSumOk 0x51 got = false ∨ 1 < flags then .fault .badHeader (some number) none
  else if count < 1 ∨ targetLength < start + count ∨ bandWidth < start % bandWidth + count then
    .fault .sectionRange (some number) none
  else .done { d with
    position := .lead
    record := .nothing
    context := some
      { number, start, count, hasDigest := decide (flags = 1), lastPlaced := none, beginPushed := true
        endPushed := false } } ring [.sectionBegin start]

/-- An end record body with its check byte (R57). -/
def Decoder.endBodyDone (targetLength : Nat) (got : Bytes) (ring : Ring) (d : Decoder) : ParseOutcome :=
  if checkSumOk 0x5E got = false then .fault .badHeader none none
  else if field got 0 2 ≠ targetLength then .fault .endMismatch none none
  else .done { d with position := .seeking, record := .nothing } ring [.imageEnd (BitVec.ofNat 32 (field got 2 4))]

/-- A stream byte processed where SD stands (R48, R79). Where a directive, a lead byte or a trailer byte would need a section
context and SD holds none, which no run reaches, the byte is passed over. -/
def Decoder.parse (targetLength bandWidth : Nat) (ring : Ring) (b : Byte) (d : Decoder) : ParseOutcome :=
  let got := d.record.got ++ [b]
  match d.position with
  | .seeking => .done d ring []
  | .endBody =>
    if got.length < 7 then .done { d with record := .bytes got } ring [] else d.endBodyDone targetLength got ring
  | .header =>
    if got.length < 7 then .done { d with record := .bytes got } ring [] else d.headerDone targetLength bandWidth got ring
  | .lead => d.leadByte b ring
  | .directive =>
    match d.context, d.record with
    | some c, .directive p => d.directiveByte c p b ring
    | _, _ => .done d ring []
  | .trailer =>
    if got.length < 4 then .done { d with record := .bytes got } ring []
    else match d.context with
      | some c => .done { d with
          position := .markerExpected
          record := .nothing
          context := some { c with endPushed := true } } ring
          [.sectionEnd c.number c.start c.count (some (BitVec.ofNat 32 (fromLe got)))]
      | none => .done d ring []
  | .markerExpected => .fault .expectedMarker d.faultSection none

/-- A valid marker where SD stands: it opens its record, or is UNEXPECTED_MARKER (none) (R48, R79). -/
def Decoder.marker (opensSection : Bool) (d : Decoder) : Option Decoder :=
  match d.position with
  | .seeking | .markerExpected =>
    some { d with position := if opensSection then .header else .endBody, record := .bytes [] }
  | .endBody | .header | .lead | .directive | .trailer => none

/-! ### Pushes, limits and stops (R85, R86) -/

/-- The blocks an item adds to blocks covered when pushed (R11, R85). -/
def Item.covers : Item → Nat
  | .block i => i.increment
  | .sectionBegin _ | .sectionEnd _ _ _ _ | .abandon | .imageEnd _ => 0

/-- The sections an item adds to sections completed when pushed (R11, R85). -/
def Item.completes : Item → Nat
  | .sectionEnd _ _ _ _ => 1
  | .sectionBegin _ | .block _ | .abandon | .imageEnd _ => 0

/-- Whether an item is an IMAGE_END. -/
def Item.isImageEnd : Item → Bool
  | .imageEnd _ => true
  | .sectionBegin _ | .block _ | .sectionEnd _ _ _ _ | .abandon => false

/-- SD's state changed. -/
def Job.mapDecoder (f : Decoder → Decoder) (j : Job) : Job := { j with decoder := f j.decoder }

/-- Waiting output pushed as far as places are free, in order, and the run counts that follow the pushes (R85). -/
def Job.flushOutput (j : Job) : Job :=
  let free := Config.queuePlaces - j.queue.length
  let moved := j.decoder.waitingOutput.take free
  { j with
    queue := j.queue ++ moved
    decoder := { j.decoder with
      waitingOutput := j.decoder.waitingOutput.drop free
      blocksCovered := j.decoder.blocksCovered + (moved.map Item.covers).sum
      sectionsCompleted := j.decoder.sectionsCompleted + (moved.map Item.completes).sum } }

/-- Items produced: they join waiting output behind what waits there, and what can be pushed is pushed (R85). -/
def Job.produce (items : List Item) (j : Job) : Job :=
  (j.mapDecoder (fun d => { d with waitingOutput := d.waitingOutput ++ items })).flushOutput

/-- Whether the run counts have reached the limit (R86). -/
def Decoder.limitReached (d : Decoder) : Bool :=
  match d.limit with
  | some (.blocks count) => decide (count ≤ d.blocksCovered)
  | some (.sections count) => decide (count ≤ d.sectionsCompleted)
  | some .continuous => false
  | none => false

/-- SD becomes STOPPED. -/
def Job.stopDecoder (j : Job) : Job := j.mapDecoder (fun d => { d with running := false })

/-- SD tests its limit once its output is pushed (R86): END before LIMIT. -/
def Job.testLimit (ended : Bool) (j : Job) : Job :=
  if j.decoder.running && j.decoder.waitingOutput.isEmpty then
    if ended then j.stopDecoder.reportStop .endOfImage
    else if j.decoder.limitReached then j.stopDecoder.reportStop .limit
    else j
  else j

/-- The partial record dropped and its uncommitted ring bytes freed (R83). -/
def Job.dropRecord (j : Job) : Job :=
  { j with
    ring := j.ring.freeNewest j.decoder.record.uncommitted
    decoder := { j.decoder with record := .nothing } }

/-- SD detects a fault at a stream byte (R90, R91). -/
def Job.decoderFault (code : FaultCode) (sectionNumber : Option Word16) (block : Option Nat) (place : StreamPlace) (j : Job) :
    Job :=
  (j.dropRecord.mapDecoder (fun d =>
    { d with running := false, faultMark := true, escape := .clear, waitingBytes := [] })).reportFault
    (.first code sectionNumber block (some place))

/-- A stream byte processed, with its items pushed and the limit tested; none when the ring is full (R80, R83, R86). -/
def Job.processByte (b : StreamByte) (j : Job) : Option Job :=
  match j.decoder.parse j.descriptor.targetLength j.descriptor.bandWidth j.ring b.value with
  | .ringFull => none
  | .fault code number block => some (j.decoderFault code number block b.place)
  | .done d ring items =>
    some ((({ j with decoder := d, ring := ring }).produce items).testLimit (items.any Item.isImageEnd))

/-- The waiting stream bytes set. -/
def Job.waitBytes (bs : List StreamByte) (j : Job) : Job := j.mapDecoder (fun d => { d with waitingBytes := bs })

/-- Delivered stream bytes processed in order; a byte that cannot be processed waits with those behind it, and a fault
discards them (R80, R90). -/
def Job.processBytes : List StreamByte → Job → Job
  | [], j => j.waitBytes []
  | b :: rest, j =>
    if j.decoder.faultMark then j.waitBytes []
    else if j.decoder.running && j.decoder.waitingOutput.isEmpty then
      match j.processByte b with
      | some j' => Job.processBytes rest j'
      | none => j.waitBytes (b :: rest)
    else j.waitBytes (b :: rest)

/-- SD goes on after a cause of its waiting may have gone: output pushed, the limit tested when that empties it, and the
waiting bytes processed (R80, R85, R86, R88). -/
def Job.wakeDecoder (j : Job) : Job :=
  let waited := j.decoder.waitingOutput
  let j := j.flushOutput
  let j := if waited.isEmpty then j else j.testLimit (waited.any Item.isImageEnd)
  j.processBytes j.decoder.waitingBytes

/-- Whether SD holds anything that a freed place or freed ring bytes could move. -/
def Decoder.hasWaiting (d : Decoder) : Bool := !d.waitingOutput.isEmpty || !d.waitingBytes.isEmpty

/-- A byte taken, matched and processed (R46, R47, R80). -/
def Job.matchByte (b : StreamByte) (j : Job) : Job :=
  match j.decoder.escape.step b.value with
  | .deliver e bytes => (j.mapDecoder (fun d => { d with escape := e })).processBytes (bytes.map (fun v => ⟨v, b.place⟩))
  | .kindByte kind =>
    let j := j.mapDecoder (fun d => { d with escape := .clear })
    if kind = 0x51 ∨ kind = 0x5E then
      match j.decoder.marker (decide (kind = 0x51)) with
      | some d => { j with decoder := d }
      | none => j.decoderFault .unexpectedMarker j.decoder.faultSection j.decoder.faultBlock b.place
    else if j.decoder.position = .seeking then j.mapDecoder (fun d => { d with escape := Escape.afterPassedOver kind })
    else j.decoderFault .badMarker j.decoder.faultSection j.decoder.faultBlock b.place
  | .violation =>
    if j.decoder.position = .seeking then j.mapDecoder (fun d => { d with escape := Escape.afterPassedOver b.value })
    else j.decoderFault .badEscape j.decoder.faultSection j.decoder.faultBlock b.place

/-- SD takes the byte offered, when it may (R80). -/
def Job.takeByte (j : Job) : Job :=
  if j.canTakeByte then
    match j.window.takeByte with
    | some (b, w) => ({ j with window := w }).matchByte b
    | none => j
  else j

/-- SD takes the suspension (R87). -/
def Job.suspendDecoder (j : Job) : Job :=
  let j := { j with signals := { j.signals with suspend := false } }
  if j.decoder.running then j.stopDecoder.reportStop .pause else j

/-- SD takes the quiesce halt and reports quiet (R141); JC discards the report outside QUIESCING (R18). -/
def Job.haltDecoder (j : Job) : Job :=
  { j.stopDecoder with
    signals := { j.signals with halt := false }
    decoderQuiet := if j.phase = .quiescing then true else j.decoderQuiet }

/-- SD takes the ABORT stop (R94); the ring is kept (R95). -/
def Job.abortDecoder (j : Job) : Job :=
  { j with
    signals := { j.signals with decoderStop := false }
    decoder := { j.decoder with running := false, waitingOutput := [], waitingBytes := [], record := .nothing } }

/-- Whether a section is open in the sense of R89: begun and neither ended nor abandoned. -/
def Decoder.sectionOpen (d : Decoder) : Bool :=
  match d.context with
  | some c => c.beginPushed && !c.endPushed
  | none => false

/-- SD takes a discontinuity (R89, R92). -/
def Job.discontinuity (j : Job) : Job :=
  if j.decoder.faultMark then j
  else
    let wasOpen := j.decoder.sectionOpen
    let j := j.dropRecord.mapDecoder (fun d =>
      { d with escape := .clear, waitingBytes := [], context := none, position := .seeking })
    if wasOpen then (j.count .sectionsAbandoned 1).produce [.abandon] else j

/-- The gap hold timer expires: PW skips the gap, SD takes the discontinuity, GAP is posted (R71 to R73). -/
def Job.expireGap (j : Job) : Work :=
  match j.window.gapTimer, j.window.lowestHeld with
  | .running _, some count =>
    let j' := (({ j with window := j.window.skip count }).count .numbersLost count).discontinuity
    ⟨j', [.gap j.descriptor.jobId j.window.base count (j.window.base + BitVec.ofNat 16 count)]⟩
  | _, _ => ⟨j, []⟩

/-- SD at RECOVER (R93): the limit and the run counts are kept. -/
def Decoder.recovered (d : Decoder) : Decoder :=
  { d with
    running := false
    faultMark := false
    position := .seeking
    escape := .clear
    waitingBytes := []
    record := .nothing
    context := none
    waitingOutput := [] }

/-- SD at RUN: RUNNING with the limit given and both run counts 0, all else kept (R10, R87). -/
def Decoder.begin (limit : Limit) (d : Decoder) : Decoder :=
  { d with running := true, limit := some limit, blocksCovered := 0, sectionsCompleted := 0 }

end Sys2Proof.Machine
end

