-- ==== Sys2Proof/Machine/Verifier.lean ====
section
/-! DEFINITION. VE: digest tasks, their order, progress, cancellation and results, the whole-image check, and the ABORT stop
(07_verification_and_image_close.md). -/

namespace Sys2Proof.Machine

/-- Whether a task covers a target block (R124). -/
def DigestTask.covers (b : Nat) (t : DigestTask) : Bool := decide (t.start ≤ b) && decide (b < t.start + t.count)

/-- VE changed. -/
def Job.mapVerifier (f : Verifier → Verifier) (j : Job) : Job := { j with verifier := f j.verifier }

/-- Whether VE holds a store request: waiting, or outstanding (R124). -/
def Verifier.holdsRequest (outstanding : Bool) (v : Verifier) : Bool := v.waiting.isSome || outstanding

/-- VE begins the oldest task when a task is held, none is in progress and VE holds no store request (R126). -/
def Verifier.beginTask (targetFirst : Nat) (outstanding : Bool) (v : Verifier) : Verifier :=
  match v.tasks with
  | [] => v
  | t :: _ =>
    if v.progress.isNone && !v.holdsRequest outstanding then
      { v with progress := some ⟨t.start, crc32Init⟩, waiting := some (storeIndex targetFirst t.start) }
    else v

/-- VE begins a task if it can, for the job's target region. -/
def Job.beginTask (outstanding : Bool) (j : Job) : Job :=
  j.mapVerifier (Verifier.beginTask j.descriptor.targetFirst outstanding)

/-- A task joins the tail of the queue (R125). -/
def Verifier.join (t : DigestTask) (v : Verifier) : Verifier := { v with tasks := v.tasks ++ [t] }

/-- Whether the queue has a free place (R124). -/
def Verifier.hasPlace (v : Verifier) : Bool := decide (v.tasks.length < Config.taskPlaces)

/-- The digest task that RU makes of a SECTION_END item (R101). -/
def Item.task? : Item → Option DigestTask
  | .sectionEnd number start count (some digest) => some ⟨number, start, count, digest⟩
  | .sectionEnd _ _ _ none => none
  | .sectionBegin _ => none
  | .block _ => none
  | .abandon => none
  | .imageEnd _ => none

/-- RU, waiting in VERIFY_WAIT, hands its task in the event in which VE frees a place, and its item is finished (R101, R125). -/
def Job.handOff (j : Job) : Job :=
  match j.unit.activity, j.unit.item.bind (fun c => c.item.task?) with
  | .verifyWait, some t =>
    if j.verifier.hasPlace then
      { j with
        verifier := j.verifier.join t
        unit := { j.unit with activity := .idle, item := none } }
    else j
  | _, _ => j

/-- Whether the task in progress covers a block. -/
def Verifier.progressCovers (b : Nat) (v : Verifier) : Bool :=
  v.progress.isSome &&
    match v.tasks with
    | t :: _ => t.covers b
    | [] => false

/-- A block has been rewritten: every task that covers it is cancelled, and the store request of the task in progress is
withdrawn or, when outstanding, discarded (R129). -/
def Verifier.cancel (b : Nat) (outstanding : Bool) (v : Verifier) : Verifier :=
  let kept := v.tasks.filter (fun t => !t.covers b)
  if v.progressCovers b then
    { v with tasks := kept, progress := none, waiting := none, discarded := v.discarded || outstanding }
  else { v with tasks := kept }

/-- VE takes a write completion: cancellation, the hand-off that a freed place allows, and the next task (R125, R126, R129). -/
def Job.cancelTasks (b : Nat) (outstanding : Bool) (j : Job) : Job :=
  ((j.mapVerifier (Verifier.cancel b outstanding)).handOff).beginTask outstanding

/-- The task in progress leaves the queue; RU's hand-off and the next task follow in the same event (R125, R127, R128). -/
def Job.endTask (j : Job) : Job :=
  ((j.mapVerifier (fun v => { v with tasks := v.tasks.drop 1, progress := none })).handOff).beginTask false

/-- A task ends: CT's account, then JC's counter and the MISMATCH notice, then the queue (R127, R128, R130). -/
def Work.taskEnds (t : DigestTask) (outcome : TaskOutcome) (w : Work) : Work :=
  let w := w.account (w.job.tracker.sectionResult t.start t.count outcome)
  let w := match outcome with
    | .isMatch => w
    | .mismatch =>
      (w.map (Job.count .digestMismatches 1)).report (.mismatch w.job.descriptor.jobId t.number t.start t.count none)
    | .check b => w.report (.mismatch w.job.descriptor.jobId t.number t.start t.count (some b))
  w.map Job.endTask

/-- How a task's digest compares (R127). -/
def DigestTask.outcome (register : Word32) (t : DigestTask) : TaskOutcome :=
  if crc32Final register = t.digest then .isMatch else .mismatch

/-- A read of the task in progress completes (R126 to R128). -/
def Work.taskRead (t : DigestTask) (p : TaskProgress) (data : Option Bytes) (w : Work) : Work :=
  match data with
  | none => w.taskEnds t (.check p.next)
  | some bytes =>
    let register := crc32Fold p.register bytes
    if p.next + 1 = t.start + t.count then w.taskEnds t (t.outcome register)
    else w.map (fun j => j.mapVerifier (fun v =>
      { v with progress := some ⟨p.next + 1, register⟩, waiting := some (storeIndex j.descriptor.targetFirst (p.next + 1)) }))

/-- The close operation ends, and JC takes its result unless ABORTING (R17, R18, R134, R135). -/
def Work.closeEnds (phase : JobPhase) (n : Notice) (w : Work) : Work :=
  let w := w.map (fun j => j.mapVerifier (fun v => { v with close := none }))
  if w.job.phase = .closing then (w.map (fun j => { j with phase })).post n else w

/-- A read of the whole-image check completes (R133 to R135). -/
def Work.closeRead (c : CloseOperation) (data : Option Bytes) (w : Work) : Work :=
  let d := w.job.descriptor
  match data with
  | none => (w.account (w.job.tracker.closeCheck c.next)).closeEnds .ready (.closeCheck d.jobId c.next)
  | some bytes =>
    let register := crc32Fold c.register bytes
    if c.next + 1 = d.targetLength then
      if crc32Final register = c.expected then
        (w.account w.job.tracker.closeMatch).closeEnds .closed (.closed d.jobId d.targetLength c.expected)
      else w.closeEnds .ready (.closeMismatch d.jobId (crc32Final register) c.expected)
    else w.map (fun j => j.mapVerifier (fun v =>
      { v with close := some ⟨c.next + 1, register, c.expected⟩, waiting := some (storeIndex d.targetFirst (c.next + 1)) }))

/-- A discarded read completes: its data are thrown away and the next task begins (R129); after VE's ABORT stop, VE reports that
it holds no store transaction of the job (R137). -/
def Job.discardedRead (j : Job) : Job :=
  let j := (j.mapVerifier (fun v => { v with discarded := false })).beginTask false
  if j.phase = .aborting ∧ j.signals.verifierStop = false then { j with verifierClear := true } else j

/-- A VE read completes, with the block's bytes or a check failure (R126 to R137). -/
def Work.verifierRead (data : Option Bytes) (w : Work) : Work :=
  let v := w.job.verifier
  if v.discarded then w.map Job.discardedRead
  else match v.close, v.tasks, v.progress with
    | some c, _, _ => w.closeRead c data
    | none, t :: _, some p => w.taskRead t p data
    | none, _, _ => w

/-- VE takes its ABORT stop (R137). -/
def Job.stopVerifier (outstanding : Bool) (j : Job) : Job :=
  { j with
    signals := { j.signals with verifierStop := false }
    verifier := { tasks := [], progress := none, close := none, waiting := none, discarded := outstanding }
    verifierClear := !outstanding }

end Sys2Proof.Machine
end

