-- ==== Sys2Proof/Machine/Recon.lean ====
section
/-! DEFINITION. RU: taking items, building blocks, holes, FILL, reconstruction faults, the quiesce, the ABORT stop and the progress
monitor (06_reconstruction_unit.md). -/

namespace Sys2Proof.Machine

/-- RU changed. -/
def Job.mapUnit (f : ReconUnit → ReconUnit) (j : Job) : Job := { j with unit := f j.unit }

/-- CT changed. -/
def Job.mapTracker (f : Tracker → Tracker) (j : Job) : Job := { j with tracker := f j.tracker }

/-- RU at LOAD_JOB (R96). -/
def ReconUnit.start : ReconUnit where
  activity := .idle
  item := none
  block := none
  waiting := none
  displacement := none
  carry := List.replicate 64 0
  fill := none
  monitor := .stopped
  order := .work

/-! ### Blocks and their store requests (R99) -/

/-- The absolute index of a target block (R99). -/
def Descriptor.targetIndex (d : Descriptor) (b : Nat) : BlockIndex := storeIndex d.targetFirst b

/-- The absolute index of a base block (R99). -/
def Descriptor.baseIndex (d : Descriptor) (relative : Int) : BlockIndex := storeIndex d.baseFirst relative.toNat

/-- What starting a block comes to: its work and its first transaction, or the fault of its test (R99, R104). -/
abbrev BlockPlan := Except FaultCode (BlockWork × StoreOp)

/-- The source test and the read of a copy with a displacement (R104, R105). -/
def Descriptor.planCopy (d : Descriptor) (b : Nat) (work : Int → BlockWork) (displacement : Option Int) : BlockPlan :=
  match displacement with
  | none => .error .skipWithoutSource
  | some e => if d.hasBase (b + e) then .ok (work e, .read (d.baseIndex (b + e))) else .error .sourceRange

/-- The source test and the read of a SELF block (R106). -/
def Job.planSelf (b distance : Nat) (j : Job) : BlockPlan :=
  if b < distance then .error .selfSource
  else
    let read := StoreOp.read (j.descriptor.targetIndex (b - distance))
    match j.tracker.state (b - distance) with
    | .empty => .error .selfSource
    | .carried | .suspect => .ok (.ownSelf true, read)
    | .written | .verified | .waived => .ok (.ownSelf false, read)

/-- The plan of a BLOCK item's next block: a skipped block below its own block, and then its own block (R104 to R107). -/
def Job.planBlock (i : BlockItem) (b : Nat) (j : Job) : BlockPlan :=
  let d := j.descriptor
  if b < i.block then d.planCopy b .skipped j.unit.displacement
  else match i.directive with
    | .copyKeep => d.planCopy b .ownCopy j.unit.displacement
    | .copyNew e => d.planCopy b .ownCopy (some e)
    | .self distance => j.planSelf b distance
    | .literal place => .ok (.ownData, .write (d.targetIndex b) (j.ring.slice place Config.blockBytes))
    | .fill value => .ok (.ownData, .write (d.targetIndex b) (uniformBlock value))

/-- The displacement that the carry table holds for a block's column (R113). -/
def Job.carryEntry (b : Nat) (j : Job) : Int := j.unit.carry.getD (b % j.descriptor.bandWidth) 0

/-- The first transaction of a carry guess with its fallback byte (R113). -/
def Job.carryGuess (b : Nat) (fallback : Byte) (j : Job) : StoreOp :=
  let source : Int := b + j.carryEntry b
  if j.descriptor.hasBase source then .read (j.descriptor.baseIndex source)
  else .write (j.descriptor.targetIndex b) (uniformBlock fallback)

/-- The first transaction of a hole block, by the fill policy; under NONE no hole block is started (R112). -/
def Job.holeRequest (b : Nat) (j : Job) : StoreOp :=
  match j.descriptor.fillPolicy with
  | .carry => j.carryGuess b j.descriptor.fillByte
  | .byte | .noFill => .write (j.descriptor.targetIndex b) (uniformBlock j.descriptor.fillByte)

/-- The first transaction of a FILL block, by the mode (R115). -/
def Job.fillRequest (f : FillOperation) (b : Nat) (j : Job) : StoreOp :=
  match f.mode with
  | .carry => j.carryGuess b f.value
  | .byte => .write (j.descriptor.targetIndex b) (uniformBlock f.value)

/-- Whether a transaction is a read or a write. -/
def StoreOp.blockStep : StoreOp → BlockStep
  | .read _ => .reading
  | .write _ _ => .writing

/-- A block is started: it is in hand and its first transaction waits for grant (R99). -/
def ReconUnit.startBlock (b : Nat) (work : BlockWork) (op : StoreOp) (u : ReconUnit) : ReconUnit :=
  { u with block := some ⟨b, op.blockStep, work⟩, waiting := some op }

/-- RU stops at a fault of its own and reports it (R116). -/
def Job.unitFault (code : FaultCode) (sectionNumber : Option Word16) (b : Nat) (j : Job) : Job :=
  (j.mapUnit (fun u => { u with activity := .halted, block := none, waiting := none })).reportFault
    (.first code sectionNumber (some b) none)

/-- RU starts the next block of its current item (R99, R104, R112). -/
def Job.startItemBlock (c : CurrentItem) (j : Job) : Job :=
  match c.item with
  | .block i =>
    match j.planBlock i c.next with
    | .ok (work, op) => j.mapUnit (ReconUnit.startBlock c.next work op)
    | .error code => j.unitFault code i.sectionNumber c.next
  | .sectionBegin _ | .imageEnd _ => j.mapUnit (ReconUnit.startBlock c.next .holeFill (j.holeRequest c.next))
  | .sectionEnd _ _ _ _ | .abandon => j

/-! ### Items (R98, R100 to R103) -/

/-- The ring bytes an item holds (R82). -/
def Item.ringHeld : Item → Nat
  | .block i => i.ringHeld
  | .sectionBegin _ | .sectionEnd _ _ _ _ | .abandon | .imageEnd _ => 0

/-- The item in work is finished: it is removed, its ring bytes are freed and RU becomes IDLE (R83, R98). -/
def Job.finishItem (item : Item) (j : Job) : Job :=
  { j with
    ring := j.ring.freeOldest item.ringHeld
    unit := { j.unit with activity := .idle, item := none, block := none } }

/-- RU takes an item as its current one, in an activity, and starts its first block (R98, R99). -/
def Job.holdItem (activity : Activity) (c : CurrentItem) (j : Job) : Job :=
  (j.mapUnit (fun u => { u with activity, item := some c })).startItemBlock c

/-- CT answers a hole request, and RU fills the hole it finds unless the policy is NONE; the continuation is the work of an item
with no hole block to write (R25, R100, R103, R112). -/
def Work.takeHole (item : Item) (start : Nat) (whenNone : Work → Work) (w : Work) : Work :=
  let (account, hole) := w.job.tracker.holeRequest start
  let w := w.account account
  if hole.count = 0 ∨ w.job.descriptor.fillPolicy = .noFill then whenNone w
  else w.map (Job.holdItem .hole ⟨item, hole.first, hole.stop⟩)

/-- RU takes a SECTION_END: the section is counted, and its task is handed to VE at once or waits for a place (R101, R125). -/
def Job.takeSectionEnd (item : Item) (outstanding : Bool) (j : Job) : Job :=
  let j := j.count .sectionsCompleted 1
  match item.task? with
  | none => j
  | some t =>
    if j.verifier.hasPlace then (j.mapVerifier (Verifier.join t)).beginTask outstanding
    else j.mapUnit (fun u => { u with activity := .verifyWait, item := some ⟨item, 0, 0⟩ })

/-- RU takes an item (R98, R100 to R104). -/
def Work.beginItem (item : Item) (outstanding : Bool) (w : Work) : Work :=
  match item with
  | .sectionBegin start =>
    (w.map (fun j => j.mapUnit (fun u => { u with displacement := some 0 }))).takeHole item start id
  | .block i => w.map (Job.holdItem .build ⟨item, i.block + 1 - i.increment, i.block + 1⟩)
  | .sectionEnd _ _ _ _ => w.map (Job.takeSectionEnd item outstanding)
  | .abandon => w.map (fun j => j.mapUnit (fun u => { u with displacement := none }))
  | .imageEnd digest => w.takeHole item w.job.descriptor.targetLength (Work.map (Job.recordEnd digest))

/-- Whether RU takes an item (R98). -/
def Job.canTakeItem (j : Job) : Bool := j.phase.inRun && j.unit.isIdle && !j.queue.isEmpty

/-- The head of the queue leaves it, SD pushes into the place freed, and RU begins the item. Both are part of one event;
which comes first is the argument (log entry 9). -/
def Job.takeItem (decoderFirst outstanding : Bool) (j : Job) : Work :=
  match j.queue with
  | [] => ⟨j, []⟩
  | item :: rest =>
    let j := { j with queue := rest }
    if decoderFirst then (Work.mk j.wakeDecoder []).beginItem item outstanding
    else ((Work.mk j []).beginItem item outstanding).map Job.wakeDecoder

/-! ### FILL (R114, R115) -/

/-- The next block of a FILL's range that RU does not pass over (R115). -/
def FillOperation.nextBlock (f : FillOperation) (t : Tracker) : Option Nat :=
  (List.range' f.next (f.first + f.count - f.next)).find? (fun b => (t.state b).listable)

/-- The FILL ends: RU becomes IDLE, and JC, in SERVICING, returns the job to READY and posts FILL_DONE (R15, R115). -/
def Work.endFill (filled : Nat) (w : Work) : Work :=
  let w := w.map (fun j => j.mapUnit (fun u => { u with activity := .idle, block := none, fill := none }))
  if w.job.phase = .servicing then
    (w.map (fun j => { j with phase := .ready })).post (.fillDone w.job.descriptor.jobId filled)
  else w

/-- RU goes on with a FILL from its next block (R115). -/
def Work.continueFill (f : FillOperation) (w : Work) : Work :=
  match f.nextBlock w.job.tracker with
  | none => w.endFill f.filled
  | some b => w.map (fun j => j.mapUnit (fun u =>
      { u with fill := some { f with next := b } }.startBlock b (.hostFill f.final) (j.fillRequest f b)))

/-! ### Completions (R99, R108, R109) -/

/-- A block's bytes with one edit applied (R108). -/
def applyEdit (ring : Ring) (content : Bytes) (e : Edit) : Bytes :=
  content.take e.offset ++ ring.slice e.place e.length ++ content.drop (e.offset + e.length)

/-- A block's bytes with the edits applied in order (R108). -/
def applyEdits (ring : Ring) (edits : List Edit) (content : Bytes) : Bytes := edits.foldl (applyEdit ring) content

/-- The edits of the current item. -/
def ReconUnit.itemEdits (u : ReconUnit) : List Edit :=
  match u.item with
  | some ⟨.block i, _, _⟩ => i.edits
  | _ => []

/-- The section number of the current BLOCK item, for a fault report (R116). -/
def ReconUnit.itemSection (u : ReconUnit) : Option Word16 :=
  match u.item with
  | some ⟨.block i, _, _⟩ => some i.sectionNumber
  | _ => none

/-- The bytes that a block is written with after its read, or the fault of a failed check (R104 to R108, R113). -/
def Job.readContent (work : BlockWork) (data : Option Bytes) (j : Job) : Option Bytes :=
  match work with
  | .skipped _ | .ownData => data
  | .ownCopy _ | .ownSelf _ => data.map (applyEdits j.ring j.unit.itemEdits)
  | .holeFill => some (data.getD (uniformBlock j.descriptor.fillByte))
  | .hostFill _ => some (data.getD (uniformBlock ((j.unit.fill.map (fun f => f.value)).getD j.descriptor.fillByte)))

/-- RU's source read completes: the write is requested, or a failed check is STORE_CHECK (R99, R116, R117). -/
def Job.blockRead (k : BlockInHand) (data : Option Bytes) (j : Job) : Job :=
  match j.readContent k.work data with
  | none => j.unitFault .storeCheck j.unit.itemSection k.target
  | some bytes => j.mapUnit (ReconUnit.startBlock k.target k.work (.write (j.descriptor.targetIndex k.target) bytes))

/-- RU after its ABORT stop once it holds no transaction: nothing in hand, and the report to JC (R118, log entry 12). -/
def Job.unitStopped (j : Job) : Job :=
  { j with
    unitClear := true
    unit := { j.unit with
      block := none
      waiting := none
      activity := match j.unit.activity with
        | .idle | .verifyWait | .fill => .idle
        | .build | .hole | .halted => .halted } }

/-- RU takes the completion of its read. In ABORTING the block ends without a write (R118, R149). -/
def Job.unitRead (data : Option Bytes) (j : Job) : Job :=
  if j.phase = .aborting then
    let j := j.mapUnit (fun u => { u with block := none })
    if j.unit.order = .stop then j.unitStopped else j
  else match j.unit.block with
    | some k => j.blockRead k data
    | none => j

/-- CT takes the report of a completed write: a write report or a fill report (R109). -/
def Work.reportBlock (k : BlockInHand) (w : Work) : Work :=
  match k.work with
  | .skipped _ | .ownCopy _ | .ownData => w.account (w.job.tracker.writeReport k.target false)
  | .ownSelf tainted => w.account (w.job.tracker.writeReport k.target tainted)
  | .holeFill => w.account (w.job.tracker.fillReport k.target false)
  | .hostFill final => w.account (w.job.tracker.fillReport k.target final)

/-- The counter that a completed write raises (R4, R109). -/
def BlockWork.counter : BlockWork → JobCounter
  | .skipped _ | .ownCopy _ | .ownSelf _ | .ownData => .blocksWritten
  | .holeFill | .hostFill _ => .blocksFilled

/-- The progress period in milliseconds (R119). -/
def Descriptor.periodMs (d : Descriptor) : Nat := d.progressPeriod * 100

/-- The progress monitor restarts at a write completion in a run (R109, R119). -/
def Job.restartMonitor (j : Job) : Job :=
  if j.phase.inRun && !(j.unit.monitor == .stopped) then
    j.mapUnit (fun u => { u with monitor := .running j.descriptor.periodMs })
  else j

/-- The carry table after a completed write: a copy leaves its displacement in its column (R109, R111). -/
def Job.recordCarry (k : BlockInHand) (j : Job) : Job :=
  match k.work with
  | .skipped e | .ownCopy e =>
    j.mapUnit (fun u => { u with carry := u.carry.set (k.target % j.descriptor.bandWidth) e })
  | .ownSelf _ | .ownData | .holeFill | .hostFill _ => j

/-- The running displacement after the own block of a directive (R110). -/
def Directive.displacementAfter (before : Option Int) : Directive → Option Int
  | .copyKeep => before
  | .copyNew e => some e
  | .self _ => none
  | .literal _ => none
  | .fill _ => none

/-- The own block of an item is written: the running displacement changes and the item is finished (R109, R110). -/
def Job.finishBlockItem (i : BlockItem) (j : Job) : Job :=
  (j.mapUnit (fun u => { u with displacement := i.directive.displacementAfter u.displacement })).finishItem (.block i)

/-- The last hole block of an item is written: an IMAGE_END reports its digest, unless RU has stopped, and the item is finished
(R98, R103). -/
def Job.finishHoleItem (item : Item) (j : Job) : Job :=
  match item with
  | .imageEnd digest => (if j.unit.order = .stop then j else j.recordEnd digest).finishItem item
  | .sectionBegin _ | .block _ | .sectionEnd _ _ _ _ | .abandon => j.finishItem item

/-- RU goes on after a block: the next one, unless it has taken the quiescing notice or the ABORT stop (R99, R109, R117). -/
def Job.nextBlock (c : CurrentItem) (j : Job) : Job :=
  let c := { c with next := c.next + 1 }
  let j := j.mapUnit (fun u => { u with item := some c, block := none })
  match j.unit.order with
  | .work => j.startItemBlock c
  | .quiesce | .stop => j.mapUnit (fun u => { u with activity := .halted })

/-- RU's current item after the completed write of its block in hand (R98, R109). -/
def Job.advanceItem (c : CurrentItem) (j : Job) : Job :=
  if c.next + 1 < c.stop then j.nextBlock c
  else match c.item with
    | .block i => j.finishBlockItem i
    | .sectionBegin _ | .imageEnd _ | .sectionEnd _ _ _ _ | .abandon => j.finishHoleItem c.item

/-- RU's work in hand after a completed write (R109, R115, R118). -/
def Work.advance (k : BlockInHand) (w : Work) : Work :=
  match k.work, w.job.unit.fill, w.job.unit.item with
  | .hostFill _, some f, _ => w.continueFill { f with next := k.target + 1, filled := f.filled + 1 }
  | .hostFill _, none, _ => w
  | _, _, some c => w.map (Job.advanceItem c)
  | _, _, none => w

/-- RU takes the completion of its write: one event at RU, CT, VE and the progress monitor (R109). The ring bytes that a finished
item frees may let SD go on (R80, R83). -/
def Work.unitWrite (verifierOutstanding : Bool) (w : Work) : Work :=
  match w.job.unit.block with
  | none => w
  | some k =>
    let w := w.reportBlock k
    let w := w.map (fun j =>
      ((((j.cancelTasks k.target verifierOutstanding).restartMonitor).count k.work.counter 1).recordCarry k).mapUnit
        (fun u => { u with block := none }))
    let w := w.advance k
    w.map (fun j => (if j.unit.order = .stop then j.unitStopped else j).wakeDecoder)

/-! ### Orders of JC (R117, R118) -/

/-- RU takes the quiescing notice (R117); one that a later state finds has no effect (log entry 14). -/
def Job.takeQuiescing (j : Job) : Job :=
  let j := { j with signals := { j.signals with quiescing := false } }
  if (j.phase = .quiescing ∨ j.phase = .aborting) ∧ j.unit.order = .work then
    j.mapUnit (fun u => { u with order := .quiesce })
  else j

/-- RU takes its ABORT stop (R118). -/
def Job.stopUnit (outstanding : Bool) (j : Job) : Job :=
  let ended : Option CurrentItem := if j.unit.activity = .verifyWait then none else j.unit.item
  let j := { j with
    signals := { j.signals with unitStop := false }
    unit := { j.unit with order := .stop, waiting := none, fill := none, item := ended, monitor := .stopped } }
  if outstanding then j else j.unitStopped

/-! ### The progress monitor (R119, R120) -/

/-- The monitor at RUN (R119). -/
def Job.startMonitor (j : Job) : Job :=
  if j.descriptor.progressPeriod = 0 then j
  else j.mapUnit (fun u => { u with monitor := .running j.descriptor.periodMs })

/-- Whether the monitor is running, so that it may expire. -/
def Monitor.isRunning : Monitor → Bool
  | .running _ => true
  | .stopped | .expired => false

/-- The cause of a stall: the first of the list that holds (R120). -/
def Job.stallCause (j : Job) : StallCause :=
  if j.unit.activity = .verifyWait then .verifyWait
  else if j.queue.isEmpty && j.starved && j.window.gap then .gapWait
  else if j.queue.isEmpty && j.window.heldCount == 0 then .starved
  else if !j.decoder.position.inSection then .hunting
  else .other

/-- The progress monitor expires (R120). -/
def Job.expireMonitor (j : Job) : Work :=
  ⟨(j.mapUnit (fun u => { u with monitor := .expired })).count .stalls 1,
    [.stall j.descriptor.jobId j.stallCause j.tracker.frontier j.window.base j.window.heldCount j.queue.length]⟩

end Sys2Proof.Machine
end

