-- ==== Sys2Proof/Machine/Arbiter.lean ====
section
/-! DEFINITION. The store arbiter: waiting requests, the rotation, grants and the LOCKED refusal (R155, R156, R158, R160). -/

namespace Sys2Proof.Machine

/-- The order in which waiting requesters are considered after a grant (R156). -/
def Requester.rotation : Requester → List Requester
  | .ru => [.ve, .lp, .ru]
  | .ve => [.lp, .ru, .ve]
  | .lp => [.ru, .ve, .lp]

/-- The request of a requester that waits for grant while the store is free; LP's is the head of its transfer queue (R158). -/
def State.waitingOp (s : State) : Requester → Option StoreOp
  | .ru => s.job.bind (fun j => j.unit.waiting)
  | .ve => (s.job.bind (fun j => j.verifier.waiting)).map .read
  | .lp => s.link.transfers.head?.map (fun t => t.op)

/-- The block a transaction names. -/
def StoreOp.index : StoreOp → BlockIndex
  | .read i => i
  | .write i _ => i

/-- Whether a transaction is a write. -/
def StoreOp.isWrite : StoreOp → Bool
  | .read _ => false
  | .write _ _ => true

/-- The first waiting requester in the rotation, with its request (R156). -/
def State.chosen (s : State) : Option (Requester × StoreOp) :=
  s.store.lastGranted.rotation.findSome? (fun who => (s.waitingOp who).map (fun op => (who, op)))

/-- The job changed, where there is one. -/
def State.mapJob (f : Job → Job) (s : State) : State := { s with job := s.job.map f }

/-- The store changed. -/
def State.mapStore (f : Store → Store) (s : State) : State := { s with store := f s.store }

/-- A request is no longer waiting; LP's stays at the head of its queue until it leaves (R158). -/
def State.takeRequest (who : Requester) (s : State) : State :=
  match who with
  | .ru => s.mapJob (fun j => j.mapUnit (fun u => { u with waiting := none }))
  | .ve => s.mapJob (fun j => j.mapVerifier (fun v => { v with waiting := none }))
  | .lp => s

/-- A grant: the transaction is in flight (R155, R156). -/
def State.grant (who : Requester) (op : StoreOp) (s : State) : State :=
  (s.takeRequest who).mapStore (fun st => { st with inFlight := some ⟨who, op⟩, lastGranted := who })

/-- Whether a chosen request is a host write to a locked block (R160). -/
def State.refuses (who : Requester) (op : StoreOp) (s : State) : Bool :=
  who == .lp && op.isWrite && s.locked op.index.val

/-- The head transfer leaves LP's queue and its reply is made (R158). -/
def State.endTransfer (status : ReplyStatus) (body : ReplyBody) (s : State) : State :=
  match s.link.transfers with
  | [] => s
  | t :: rest => (s.mapLink (fun l => { l with transfers := rest })).reply t.tag status body

/-- A host write refused LOCKED at its grant, without a transaction (R160). -/
def State.refuseLocked (op : StoreOp) (s : State) : State :=
  (s.mapStore (fun st => { st with lastGranted := .lp })).endTransfer .locked (.blockIndex op.index.val)

/-- The arbiter grants the next waiting request while the store is free; a LOCKED refusal leaves it free for the next
(R156, R160). The first argument bounds the refusals of one event. -/
def State.arbitrateWithin : Nat → State → State
  | 0, s => s
  | n + 1, s =>
    if s.store.inFlight.isSome || s.store.clear.isSome then s
    else match s.chosen with
      | none => s
      | some (who, op) =>
        if s.refuses who op then State.arbitrateWithin n (s.refuseLocked op) else s.grant who op

/-- The arbiter's choice at the end of an event: each refusal takes one transfer out of LP's queue, so one more try than
transfers is enough. -/
def State.arbitrate (s : State) : State := s.arbitrateWithin (s.link.transfers.length + 1)

/-- The store becomes free at a completion (R155). -/
def State.freeStore (s : State) : State := s.mapStore (fun st => { st with inFlight := none })

/-- The end of an event that may bring a request to the arbiter: the job's part settled, the arbiter's choice, and the transmit
arbiter's (R155: every change of the event is settled before the arbiter chooses; log entry 30 for the teardown). -/
def State.closeGranting (w : Work) (s : State) : State := ((s.settleWork w).arbitrate).transmit

end Sys2Proof.Machine
end

