-- ==== Sys2Proof/Machine/Events.lean ====
section
/-! DEFINITION. The events of the job's blocks as commands: SD, PW, RU, VE, CT. An event whose conditions do not hold has no
effect (log entry 1). -/

namespace Sys2Proof.Machine

/-! ### SD and PW -/

/-- SD_TAKE_BYTE (R80). -/
def execSdTakeByte (s : State) : Result := .next (s.atJobWhen Job.canTakeByte (quietly Job.takeByte))

/-- SD_SUSPEND (R87). -/
def execSdSuspend (s : State) : Result := .next (s.atJobWhen (fun j => j.signals.suspend) (quietly Job.suspendDecoder))

/-- SD_HALT (R141). -/
def execSdHalt (s : State) : Result := .next (s.atJobWhen (fun j => j.signals.halt) (quietly Job.haltDecoder))

/-- SD_ABORT_STOP (R94). -/
def execSdAbortStop (s : State) : Result := .next (s.atJobWhen (fun j => j.signals.decoderStop) (quietly Job.abortDecoder))

/-- Whether the gap hold timer can expire: it runs, and a parcel is held above the gap (R71). -/
def Job.gapCanExpire (j : Job) : Bool := !(j.window.gapTimer == .idle) && j.window.lowestHeld.isSome

/-- GAP_HOLD_EXPIRY (R71). -/
def execGapHoldExpiry (s : State) : Result := .next (s.atJobWhen Job.gapCanExpire Job.expireGap)

/-! ### RU -/

/-- RU_TAKE_ITEM (R98). Where SD holds something waiting, whether SD or RU acts first is drawn (log entry 9). -/
def State.ruTakeItem (s : State) : State :=
  match s.job with
  | none => s
  | some j =>
    if j.canTakeItem then
      let outstanding := s.store.outstanding .ve
      if j.decoder.hasWaiting then
        s.drawn.closeGranting (j.takeItem (Config.decoderFirst s.freeIndex) outstanding)
      else s.closeGranting (j.takeItem false outstanding)
    else s

/-- RU_TAKE_ITEM. -/
def execRuTakeItem (s : State) : Result := .next s.ruTakeItem

/-- RU_READ_COMPLETE: RU's read in flight completes (R99, R155). -/
def State.ruReadComplete (s : State) : State :=
  match s.store.inFlight, s.job with
  | some ⟨.ru, .read i⟩, some j => s.freeStore.closeGranting (quietly (Job.unitRead (s.store.readBlock i)) j)
  | _, _ => s

/-- RU_READ_COMPLETE. -/
def execRuReadComplete (s : State) : Result := .next s.ruReadComplete

/-- RU_WRITE_COMPLETE: RU's write in flight completes (R109, R155). -/
def State.ruWriteComplete (s : State) : State :=
  match s.store.inFlight, s.job with
  | some ⟨.ru, .write i content⟩, some j =>
    (s.freeStore.mapStore (fun st => st.writeBlock i content)).closeGranting ((Work.mk j []).unitWrite false)
  | _, _ => s

/-- RU_WRITE_COMPLETE. -/
def execRuWriteComplete (s : State) : Result := .next s.ruWriteComplete

/-- RU_QUIESCING_NOTICE (R117). -/
def execRuQuiescingNotice (s : State) : Result :=
  .next (s.atJobWhen (fun j => j.signals.quiescing) (quietly Job.takeQuiescing))

/-- RU_ABORT_STOP (R118). -/
def execRuAbortStop (s : State) : Result :=
  .next (s.atJobWhen (fun j => j.signals.unitStop) (quietly (Job.stopUnit (s.store.outstanding .ru))))

/-- PROGRESS_MONITOR_EXPIRY (R120). -/
def execProgressMonitorExpiry (s : State) : Result :=
  .next (s.atJobWhen (fun j => j.unit.monitor.isRunning) Job.expireMonitor)

/-! ### VE -/

/-- VE_READ_COMPLETE: VE's read in flight completes (R126, R155). -/
def State.veReadComplete (s : State) : State :=
  match s.store.inFlight, s.job with
  | some ⟨.ve, .read i⟩, some j => s.freeStore.closeGranting ((Work.mk j []).verifierRead (s.store.readBlock i))
  | _, _ => s

/-- VE_READ_COMPLETE. -/
def execVeReadComplete (s : State) : Result := .next s.veReadComplete

/-- VE_ABORT_STOP (R137). -/
def execVeAbortStop (s : State) : Result :=
  .next (s.atJobWhen (fun j => j.signals.verifierStop) (quietly (Job.stopVerifier (s.store.outstanding .ve))))

/-! ### CT -/

/-- Whether the walk goes on: a scan stands in SERVICING. From the ABORT no block is visited, though CT may not yet have taken its
stop, so the live list stays as it stood (R15, R39, R42). -/
def Job.canScan (j : Job) : Bool := j.phase == .servicing && j.tracker.scan.isSome

/-- The scan's end at JC: the job returns to READY and SCAN_DONE is posted (R15, R41). -/
def Work.endScan (w : Work) : Work :=
  (w.map (fun j => { j with phase := .ready })).post
    (.scanDone w.job.descriptor.jobId w.job.tracker.repairs.length w.job.tracker.overflow)

/-- One visit of the repair scan (R39, R41). -/
def Job.scanVisit (j : Job) : Work :=
  match j.tracker.scan with
  | none => ⟨j, []⟩
  | some sc =>
    match j.tracker.scanStep sc with
    | .goesOn t => ⟨{ j with tracker := t }, []⟩
    | .ends a => ((Work.mk j []).account a).endScan

/-- SCAN_VISIT (R39). -/
def execScanVisit (s : State) : Result := .next (s.atJobWhen Job.canScan Job.scanVisit)

/-- SCAN_ABORT_STOP (R42). -/
def execScanAbortStop (s : State) : Result := .next (s.atJobWhen (fun j => j.signals.scanStop) (quietly Job.stopScan))

end Sys2Proof.Machine
end

