-- ==== Sys2Proof/Machine/Operands.lean ====
section
/-! DEFINITION. The fields of request bodies: how they are read (R184) and the first of them that fails its test (R1, R184, R185). -/

namespace Sys2Proof.Machine

/-- The fields of a request read, or the number of the first that fails its test: the body of BAD_PARAM (R184). -/
abbrev Fields (α : Type) := Except Nat α

/-- The accepted body length of each request code (R172, R183). -/
def bodyLengthOk (code : Byte) (body : Bytes) : Bool :=
  if code = 0x10 then body.length == 17
  else if code = 0x11 then body.length == 3
  else if code = 0x20 then decide (3 ≤ body.length) && decide (body.length ≤ 514)
  else if code = 0x30 then body.length == 4
  else if code = 0x32 then body.length == 7
  else if code = 0x33 then body.length == 4
  else if code = 0x40 then body.length == 2
  else if code = 0x41 then body.length == 514
  else if code = 0x50 then body.length == 1
  else body.length == 0

/-- Whether two regions share a block (R1); an empty region shares none. -/
def regionsOverlap (firstA lengthA firstB lengthB : Nat) : Bool :=
  decide (0 < lengthA) && decide (0 < lengthB) && decide (firstA < firstB + lengthB) && decide (firstB < firstA + lengthA)

/-- The fill policy of a code (R183). -/
def FillPolicy.ofCode (n : Nat) : Option FillPolicy :=
  if n = 0 then some .carry else if n = 1 then some .byte else if n = 2 then some .noFill else none

/-- LOAD_JOB's descriptor, its fields tested in order (R1). -/
def readDescriptor (body : Bytes) : Fields Descriptor :=
  let baseFirst := field body 2 2
  let baseLength := field body 4 2
  let targetFirst := field body 6 2
  let targetLength := field body 8 2
  let bandWidth := field body 10 1
  let gapHold := field body 13 1
  let progressPeriod := field body 14 1
  if 4095 < baseFirst then .error 2
  else if 2048 < baseLength ∨ 4096 < baseFirst + baseLength then .error 3
  else if 4095 < targetFirst then .error 4
  else if targetLength < 1 ∨ 2048 < targetLength ∨ 4096 < targetFirst + targetLength
      ∨ regionsOverlap baseFirst baseLength targetFirst targetLength = true then .error 5
  else if bandWidth < 1 ∨ 64 < bandWidth then .error 6
  else if gapHold < 1 ∨ 250 < gapHold then .error 8
  else if 15 < progressPeriod then .error 9
  else match FillPolicy.ofCode (field body 15 1) with
    | none => .error 10
    | some policy => .ok
      { jobId := BitVec.ofNat 16 (field body 0 2), baseFirst, baseLength, targetFirst, targetLength, bandWidth
        firstSequence := BitVec.ofNat 16 (field body 11 2), gapHold, progressPeriod, fillPolicy := policy
        fillByte := BitVec.ofNat 8 (field body 16 1) }

/-- RUN's limit (R10, R185). -/
def readLimit (body : Bytes) : Fields Limit :=
  let mode := field body 0 1
  let count := field body 1 2
  if 2 < mode then .error 1
  else if mode = 0 then .ok .continuous
  else if mode = 1 then if count < 1 ∨ 4095 < count then .error 2 else .ok (.blocks count)
  else if count < 1 ∨ 255 < count then .error 2 else .ok (.sections count)

/-- PARCEL's sequence number. -/
def parcelSequence (body : Bytes) : Word16 := BitVec.ofNat 16 (field body 0 2)

/-- PARCEL's payload: the rest of the body (11.3). -/
def parcelPayload (body : Bytes) : Bytes := body.drop 2

/-- GET_MAP's first block and count (R36). -/
def readMapRange (targetLength : Nat) (body : Bytes) : Fields BlockRange :=
  let first := field body 0 2
  let count := field body 2 2
  if count < 1 ∨ 256 < count ∨ targetLength < first + count then .error 2 else .ok ⟨first, count⟩

/-- WAIVE's first block and count (R38). -/
def readWaiveRange (frontier : Nat) (body : Bytes) : Fields BlockRange :=
  let first := field body 0 2
  let count := field body 2 2
  if count < 1 ∨ frontier < first + count then .error 2 else .ok ⟨first, count⟩

/-- FILL's operation (R114, R185), with its next block at first and its filled count 0. -/
def readFill (frontier : Nat) (body : Bytes) : Fields FillOperation :=
  let first := field body 0 2
  let count := field body 2 2
  let mode := field body 4 1
  let final := field body 6 1
  if count < 1 ∨ frontier < first + count then .error 2
  else if 1 < mode then .error 3
  else if 1 < final then .error 5
  else .ok
    { first, count, mode := if mode = 0 then .carry else .byte, value := BitVec.ofNat 8 (field body 5 1)
      final := decide (final = 1), next := first, filled := 0 }

/-- The absolute index of READ_BLOCK and WRITE_BLOCK (R159, R160). -/
def readIndex (body : Bytes) : Fields BlockIndex :=
  if h : field body 0 2 < Config.storeBlocks then .ok ⟨field body 0 2, h⟩ else .error 1

/-- WRITE_BLOCK's 512 bytes. -/
def writeData (body : Bytes) : Bytes := body.drop 2

/-- ACK_NOTICES's sequence number (R177). -/
def ackNumber (body : Bytes) : Byte := BitVec.ofNat 8 (field body 0 1)

end Sys2Proof.Machine
end

