-- ==== Sys2Proof/Machine/Requests.lean ====
section
/-! DEFINITION. The eighteen requests: the request table, the order of refusals (R8, R171, R172) and what each request does. Each
meaning is the event of the last CRC byte of its frame (log entry 4). -/

namespace Sys2Proof.Machine

/-! ### The request table (R171, R172) -/

/-- A good request frame takes a free entry; the receiver hunts again (R167, R171). -/
def Link.enter (tag code : Byte) (l : Link) : Link :=
  { l with receiver := .hunting, table := l.table ++ [⟨tag, code⟩] }

/-- Whether a tag is outstanding (R171). -/
def Link.hasTag (tag : Byte) (l : Link) : Bool := l.table.any (fun e => e.tag == tag)

/-- A good request frame: tested against the request table, refused NOT_READY while the start-up clear runs, and else handed on
to what performs it; the transmit arbiter then makes its choice (R171, R172, R174). -/
def State.accept (tag code : Byte) (body : Bytes) (perform : State → State) (s : State) : State :=
  if Config.maxBody < body.length then s.mapLink (Link.discard .length)
  else if s.link.hasTag tag then s.mapLink (Link.discard .tag)
  else if Config.tableEntries ≤ s.link.table.length then s.mapLink (Link.discard .overrun)
  else
    let s := s.mapLink (Link.enter tag code)
    (if s.store.clear.isSome then s.reply tag .notReady .empty else perform s).transmit

/-- A request of one of the eighteen codes: a wrong body length is BAD_LENGTH (R172). -/
def State.request (tag code : Byte) (body : Bytes) (perform : State → State) (s : State) : State :=
  s.accept tag code body (fun s => if bodyLengthOk code body then perform s else s.reply tag .badLength .empty)

/-- A job-level request: the job-state test of R9, and then its work at the job (R8). -/
def State.atJobState (tag : Byte) (r : JobRequest) (perform : Job → State → State) (s : State) : State :=
  match jobTest r (s.job.map (fun j => j.phase)), s.job with
  | some refusal, _ => s.reply tag refusal .empty
  | none, some j => perform j s
  | none, none => s

/-- The fields of a request: the first that fails its test is named by BAD_PARAM (R184). -/
def State.withFields {α : Type} (tag : Byte) (fields : Fields α) (perform : α → State → State) (s : State) : State :=
  match fields with
  | .error number => s.reply tag .badParam (.badField number)
  | .ok a => perform a s

/-! ### JC: IDENTIFY, STATUS, LOAD_JOB, RUN, PAUSE, RECOVER, ABORT -/

/-- IDENTIFY (R20). -/
def State.identify (tag : Byte) (s : State) : State := s.reply tag .ok .identity

/-- The job's part of a STATUS reply (R19). -/
def Job.status (j : Job) : JobStatus where
  phase := j.phase
  jobId := j.descriptor.jobId
  stopReason := j.stopReason
  endRecord := j.endRecord
  faultRecord := j.faultRecord
  counters := j.counters
  decoderRunning := j.decoder.running
  inSection := j.decoder.position.inSection
  frontier := j.tracker.frontier
  repairCount := j.tracker.repairs.length
  overflow := j.tracker.overflow
  windowBase := j.window.base
  heldParcels := j.window.heldCount
  queuedItems := j.queue.length
  ringHeld := j.ring.bytes.length
  tasksHeld := j.verifier.tasks.length
  taskInProgress := j.verifier.progress.isSome

/-- The values of a STATUS reply (R19). -/
def State.snapshot (s : State) : StatusSnapshot := ⟨s.job.map Job.status, s.link.errors, s.link.dropped⟩

/-- STATUS (R19). -/
def State.status (tag : Byte) (s : State) : State := s.reply tag .ok (.status s.snapshot)

/-- The job that an accepted LOAD_JOB creates (R2, R59, R78, R96, R124). -/
def Job.start (d : Descriptor) : Job where
  descriptor := d
  phase := .ready
  stopReason := none
  endRecord := ⟨false, none⟩
  faultRecord := none
  counters := JobCounters.zero
  signals := Signals.clear
  decoderQuiet := false
  unitClear := false
  verifierClear := false
  window := Window.start d.firstSequence
  decoder := Decoder.start
  queue := []
  ring := Ring.empty
  unit := ReconUnit.start
  tracker := ⟨List.replicate d.targetLength .empty, 0, [], false, none⟩
  verifier := ⟨[], none, none, none, false⟩

/-- LOAD_JOB (R1, R2). -/
def State.loadJob (tag : Byte) (body : Bytes) (s : State) : State :=
  match jobTest .loadJob (s.job.map (fun j => j.phase)) with
  | some refusal => s.reply tag refusal .empty
  | none => s.withFields tag (readDescriptor body) (fun d s => { s with job := some (Job.start d) }.reply tag .ok .empty)

/-- The job at an accepted RUN: RUNNING, SD resumed, the monitor started, and waiting stream bytes processed (R10, R87; log
entry 15). -/
def Job.run (limit : Limit) (j : Job) : Job :=
  (({ j with phase := .running }.mapDecoder (Decoder.begin limit)).startMonitor).wakeDecoder

/-- RUN (R10). -/
def State.run (tag : Byte) (body : Bytes) (s : State) : State :=
  s.atJobState tag .readyOnly (fun j s => s.withFields tag (readLimit body) (fun limit s =>
    (s.reply tag .ok .empty).settleWork (quietly (Job.run limit) j)))

/-- The job at a PAUSE in RUNNING: STOPPING with reason PAUSE, and SD is told to suspend (R13). -/
def Job.pause (j : Job) : Job :=
  { j with phase := .stopping, stopReason := some .pause, signals := { j.signals with suspend := true } }

/-- PAUSE; in STOPPING it changes nothing (R13, R14). -/
def State.pause (tag : Byte) (s : State) : State :=
  s.atJobState tag .pause (fun j s =>
    let s := s.reply tag .ok .empty
    if j.phase = .running then s.settleWork (quietly Job.pause j) else s)

/-- The job at a RECOVER (R146, R147). -/
def Job.recover (j : Job) : Job :=
  { j with
    phase := .ready
    faultRecord := none
    queue := []
    ring := Ring.empty
    decoder := j.decoder.recovered
    unit := { j.unit with activity := .idle, item := none, displacement := none, order := .work } }

/-- RECOVER (R146). -/
def State.recover (tag : Byte) (s : State) : State :=
  s.atJobState tag .recover (fun j s => { s with job := some j.recover }.reply tag .ok .empty)

/-- The job at an ABORT: ABORTING, the fault record removed, both timers stopped, and each block told to stop (R18, R148). -/
def Job.beginAbort (j : Job) : Job :=
  Job.settleTimers
    { j with
      phase := .aborting
      faultRecord := none
      signals := { j.signals with decoderStop := true, unitStop := true, verifierStop := true, scanStop := true } }

/-- The stops that are taken in the event of the ABORT itself: which of them is drawn by a number; the others are events of their own
rows (R18, R148, R150; log entry 18). -/
def Job.stopAtOnce (number : Nat) (unitOutstanding verifierOutstanding : Bool) (j : Job) : Job :=
  let j := if Config.decoderStopsAtOnce number then j.abortDecoder else j
  let j := if Config.unitStopsAtOnce number then j.stopUnit unitOutstanding else j
  let j := if Config.verifierStopsAtOnce number then j.stopVerifier verifierOutstanding else j
  if Config.scanStopsAtOnce number then j.stopScan else j

/-- ABORT: the reply is made, and the teardown is complete in the same event when RU and VE both report in it (R18, R148, R150). -/
def State.abort (tag : Byte) (s : State) : State :=
  s.atJobState tag .abort (fun j s =>
    let stopped := j.beginAbort.stopAtOnce s.freeIndex (s.store.outstanding .ru) (s.store.outstanding .ve)
    ({ s.drawn with job := some stopped }.reply tag .started .empty).teardown)

/-! ### PW, CT and RU: PARCEL, GET_MAP, GET_REPAIRS, FILL, WAIVE, REPAIR_SCAN -/

/-- PARCEL (R60 to R65). -/
def State.parcel (tag : Byte) (body : Bytes) (s : State) : State :=
  s.atJobState tag .parcel (fun j s =>
    let (j', verdict) := j.takeParcel ⟨parcelSequence body, parcelPayload body⟩
    { s with job := some j' }.reply tag .ok (.parcel verdict j'.window.base j'.window.freeCount))

/-- GET_MAP (R36). -/
def State.getMap (tag : Byte) (body : Bytes) (s : State) : State :=
  s.atJobState tag .account (fun j s => s.withFields tag (readMapRange j.descriptor.targetLength body) (fun r s =>
    s.reply tag .ok (.map r.first r.count j.tracker.frontier (r.blocks.map j.tracker.state))))

/-- GET_REPAIRS (R37). -/
def State.getRepairs (tag : Byte) (s : State) : State :=
  s.atJobState tag .account (fun j s =>
    s.reply tag .ok (.repairs j.tracker.frontier j.tracker.overflow j.tracker.repairs))

/-- The job at an accepted FILL: SERVICING, and RU starts the first block (R114, R115). -/
def Job.beginFill (f : FillOperation) (j : Job) : Work :=
  (quietly (fun j => { j with phase := .servicing }.mapUnit (fun u => { u with activity := .fill })) j).continueFill f

/-- FILL (R114). -/
def State.fill (tag : Byte) (body : Bytes) (s : State) : State :=
  s.atJobState tag .readyOnly (fun j s => s.withFields tag (readFill j.tracker.frontier body) (fun f s =>
    ((s.reply tag .started .empty).settleWork (j.beginFill f)).arbitrate))

/-- WAIVE (R38). -/
def State.waive (tag : Byte) (body : Bytes) (s : State) : State :=
  s.atJobState tag .readyOnly (fun j s => s.withFields tag (readWaiveRange j.tracker.frontier body) (fun r s =>
    (s.reply tag .ok (.waived (j.tracker.waivable r).length (j.tracker.emptyIn r).length)).finishWork
      ((Work.mk j []).account (j.tracker.waive r))))

/-- REPAIR_SCAN (R39). -/
def State.repairScan (tag : Byte) (s : State) : State :=
  s.atJobState tag .readyOnly (fun j s =>
    { s with job := some { j with phase := .servicing, tracker := j.tracker.startScan } }.reply tag .started .empty)

/-! ### CLOSE_IMAGE -/

/-- The lowest target block that is EMPTY, CARRIED or SUSPECT, with its state (R132). -/
def Tracker.lowestListable (t : Tracker) : Option (Nat × Coverage) :=
  (List.range t.map.length).findSome? (fun b => if (t.state b).listable then some (b, t.state b) else none)

/-- The close preconditions: the body of INCOMPLETE for the first one unmet, or the expected digest (R132, R133). -/
def Job.closeTest (verifierOutstanding : Bool) (j : Job) : Except ReplyBody Word32 :=
  match j.endRecord.seen, j.endRecord.digest with
  | true, some digest =>
    if j.tracker.frontier < j.descriptor.targetLength then .error (.unmet 2 j.tracker.frontier .empty)
    else match j.tracker.lowestListable with
      | some (b, c) => .error (.unmet 3 b c)
      | none =>
        if !j.tracker.repairs.isEmpty || j.tracker.overflow then .error (.unmet 4 0 .empty)
        else if !j.verifier.isIdle verifierOutstanding then .error (.unmet 5 0 .empty)
        else .ok digest
  | _, _ => .error (.unmet 1 0 .empty)

/-- The job at an accepted CLOSE_IMAGE: CLOSING, and VE requests target block 0 (R133). -/
def Job.beginClose (expected : Word32) (j : Job) : Job :=
  { j with phase := .closing }.mapVerifier (fun v =>
    { v with close := some ⟨0, crc32Init, expected⟩, waiting := some (storeIndex j.descriptor.targetFirst 0) })

/-- CLOSE_IMAGE (R132, R133). -/
def State.closeImage (tag : Byte) (s : State) : State :=
  s.atJobState tag .readyOnly (fun j s =>
    match j.closeTest (s.store.outstanding .ve) with
    | .error body => s.reply tag .incomplete body
    | .ok expected => ({ s with job := some (j.beginClose expected) }.reply tag .started .empty).arbitrate)

/-! ### BS and LP: READ_BLOCK, WRITE_BLOCK, ACK_NOTICES, REPLAY_NOTICES -/

/-- A host transfer joins LP's queue (R158). -/
def Link.join (t : HostTransfer) (l : Link) : Link := { l with transfers := l.transfers ++ [t] }

/-- READ_BLOCK (R159). -/
def State.readBlock (tag : Byte) (body : Bytes) (s : State) : State :=
  s.withFields tag (readIndex body) (fun i s => (s.mapLink (Link.join ⟨tag, .read i⟩)).arbitrate)

/-- WRITE_BLOCK (R160). -/
def State.writeBlock (tag : Byte) (body : Bytes) (s : State) : State :=
  s.withFields tag (readIndex body) (fun i s => (s.mapLink (Link.join ⟨tag, .write i (writeData body)⟩)).arbitrate)

/-- A NOTICE_OVERFLOW is queued in a freed place when notices have been dropped, and the count returns to 0 (R178). -/
def Link.enterOverflow (l : Link) : Link :=
  if l.dropped = 0 then l else { l.post (.noticeOverflow l.dropped) with dropped := 0 }

/-- ACK_NOTICES (R177, R178). -/
def State.ackNotices (tag : Byte) (body : Bytes) (s : State) : State :=
  match s.link.notices.findIdx? (fun n => n.sequence == ackNumber body) with
  | none => s.reply tag .badParam (.badField 1)
  | some i =>
    let s := s.mapLink (fun l => { l with notices := l.notices.drop (i + 1) }.enterOverflow)
    s.reply tag .ok (.acked (i + 1) s.link.notices.length)

/-- REPLAY_NOTICES (R176). -/
def State.replayNotices (tag : Byte) (s : State) : State :=
  (s.mapLink (fun l => { l with notices := l.notices.map (fun n => { n with sent := false }) })).reply tag .ok
    (.replayed s.link.notices.length)

/-! ### The meanings -/

/-- IDENTIFY. -/
def execIdentify (tag : Byte) (body : Bytes) (s : State) : Result :=
  .next (s.request tag 0x01 body (State.identify tag))

/-- STATUS. -/
def execStatus (tag : Byte) (body : Bytes) (s : State) : Result :=
  .next (s.request tag 0x02 body (State.status tag))

/-- LOAD_JOB. -/
def execLoadJob (tag : Byte) (body : Bytes) (s : State) : Result :=
  .next (s.request tag 0x10 body (State.loadJob tag body))

/-- RUN. -/
def execRun (tag : Byte) (body : Bytes) (s : State) : Result :=
  .next (s.request tag 0x11 body (State.run tag body))

/-- PAUSE. -/
def execPause (tag : Byte) (body : Bytes) (s : State) : Result :=
  .next (s.request tag 0x12 body (State.pause tag))

/-- RECOVER. -/
def execRecover (tag : Byte) (body : Bytes) (s : State) : Result :=
  .next (s.request tag 0x13 body (State.recover tag))

/-- ABORT. -/
def execAbort (tag : Byte) (body : Bytes) (s : State) : Result :=
  .next (s.request tag 0x14 body (State.abort tag))

/-- PARCEL. -/
def execParcel (tag : Byte) (body : Bytes) (s : State) : Result :=
  .next (s.request tag 0x20 body (State.parcel tag body))

/-- GET_MAP. -/
def execGetMap (tag : Byte) (body : Bytes) (s : State) : Result :=
  .next (s.request tag 0x30 body (State.getMap tag body))

/-- GET_REPAIRS. -/
def execGetRepairs (tag : Byte) (body : Bytes) (s : State) : Result :=
  .next (s.request tag 0x31 body (State.getRepairs tag))

/-- FILL. -/
def execFill (tag : Byte) (body : Bytes) (s : State) : Result :=
  .next (s.request tag 0x32 body (State.fill tag body))

/-- WAIVE. -/
def execWaive (tag : Byte) (body : Bytes) (s : State) : Result :=
  .next (s.request tag 0x33 body (State.waive tag body))

/-- REPAIR_SCAN. -/
def execRepairScan (tag : Byte) (body : Bytes) (s : State) : Result :=
  .next (s.request tag 0x34 body (State.repairScan tag))

/-- CLOSE_IMAGE. -/
def execCloseImage (tag : Byte) (body : Bytes) (s : State) : Result :=
  .next (s.request tag 0x38 body (State.closeImage tag))

/-- READ_BLOCK. -/
def execReadBlock (tag : Byte) (body : Bytes) (s : State) : Result :=
  .next (s.request tag 0x40 body (State.readBlock tag body))

/-- WRITE_BLOCK. -/
def execWriteBlock (tag : Byte) (body : Bytes) (s : State) : Result :=
  .next (s.request tag 0x41 body (State.writeBlock tag body))

/-- ACK_NOTICES. -/
def execAckNotices (tag : Byte) (body : Bytes) (s : State) : Result :=
  .next (s.request tag 0x50 body (State.ackNotices tag body))

/-- REPLAY_NOTICES. -/
def execReplayNotices (tag : Byte) (body : Bytes) (s : State) : Result :=
  .next (s.request tag 0x51 body (State.replayNotices tag))

end Sys2Proof.Machine
end

