-- ==== Sys2Proof/Machine/Receiver.lean ====
section
/-! DEFINITION. The frame receiver, unknown requests and the transmitter's end of frame (R167 to R174). -/

namespace Sys2Proof.Machine

/-- A good request frame taken by its code: one of the eighteen, or UNKNOWN_REQUEST (R172, R183). -/
def State.takeFrame (tag code : Byte) (body : Bytes) (s : State) : State :=
  if code = 0x01 then s.request tag 0x01 body (State.identify tag)
  else if code = 0x02 then s.request tag 0x02 body (State.status tag)
  else if code = 0x10 then s.request tag 0x10 body (State.loadJob tag body)
  else if code = 0x11 then s.request tag 0x11 body (State.run tag body)
  else if code = 0x12 then s.request tag 0x12 body (State.pause tag)
  else if code = 0x13 then s.request tag 0x13 body (State.recover tag)
  else if code = 0x14 then s.request tag 0x14 body (State.abort tag)
  else if code = 0x20 then s.request tag 0x20 body (State.parcel tag body)
  else if code = 0x30 then s.request tag 0x30 body (State.getMap tag body)
  else if code = 0x31 then s.request tag 0x31 body (State.getRepairs tag)
  else if code = 0x32 then s.request tag 0x32 body (State.fill tag body)
  else if code = 0x33 then s.request tag 0x33 body (State.waive tag body)
  else if code = 0x34 then s.request tag 0x34 body (State.repairScan tag)
  else if code = 0x38 then s.request tag 0x38 body (State.closeImage tag)
  else if code = 0x40 then s.request tag 0x40 body (State.readBlock tag body)
  else if code = 0x41 then s.request tag 0x41 body (State.writeBlock tag body)
  else if code = 0x50 then s.request tag 0x50 body (State.ackNotices tag body)
  else if code = 0x51 then s.request tag 0x51 body (State.replayNotices tag)
  else s.accept tag code body (State.reply tag .unknownRequest .empty)

/-- The tag of a complete frame (R182). -/
def frameTag (frame : Bytes) : Byte := frame.getD 3 0

/-- The code of a complete frame (R182). -/
def frameCode (frame : Bytes) : Byte := frame.getD 4 0

/-- The body of a complete frame (R182). -/
def frameBody (frame : Bytes) : Bytes := (frame.drop 5).take (frameBodyLength frame)

/-- A frame is complete at its second CRC byte: the CRC is tested, then the kind, and a good request frame is taken (R169,
R171). -/
def State.completeFrame (frame : Bytes) (s : State) : State :=
  if !frameCrcOk frame then s.mapLink (Link.discard .crc)
  else if !frameKindOk frame then s.mapLink (Link.discard .kind)
  else s.takeFrame (frameTag frame) (frameCode frame) (frameBody frame)

/-- The receiver set. -/
def State.receive (r : Receiver) (s : State) : State := s.mapLink (fun l => { l with receiver := r })

/-- Whether an assembled frame has its body length too long at its second length byte (R167). -/
def frameTooLong (frame : Bytes) : Bool := frame.length == 2 && decide (Config.maxBody < frameBodyLength frame)

/-- Whether an assembled frame is complete (R167). -/
def frameComplete (frame : Bytes) : Bool := decide (2 ≤ frame.length) && decide (frameBodyLength frame + 7 ≤ frame.length)

/-- A byte received (R167). -/
def State.receiveByte (b : Byte) (s : State) : State :=
  match s.link.receiver with
  | .hunting => if b = 0xB5 then s.receive (.assembling []) else s
  | .assembling held =>
    let frame := held ++ [b]
    if frameTooLong frame then s.mapLink (Link.discard .length)
    else if frameComplete frame then s.completeFrame frame
    else s.receive (.assembling frame)

/-- The reply run after one more reply frame (R174). -/
def nextReplyRun (n : Nat) : Nat := min (n + 1) 4

/-- The frame being sent ends: a reply leaves the waiting set and its request the table; the run of replies is counted; the
transmit arbiter chooses the next frame (R173, R174). -/
def Link.endFrame (l : Link) : Link :=
  match l.sending with
  | none => l
  | some (.reply r) =>
    ({ l with
      sending := none
      replies := l.replies.drop 1
      table := l.table.filter (fun e => e.tag != r.tag)
      replyRun := nextReplyRun l.replyRun } : Link).transmit
  | some (.notice _ _) => ({ l with sending := none, replyRun := 0 } : Link).transmit

/-! ### The meanings -/

/-- FRAME_LENGTH_ERR (R167). -/
def execFrameLengthErr (s : State) : Result := .next (s.mapLink (Link.discard .length))

/-- FRAME_GAP_EXPIRY, which runs only while a frame is assembled (R168). -/
def execFrameGapExpiry (s : State) : Result :=
  match s.link.receiver with
  | .hunting => .next s
  | .assembling _ => .next (s.mapLink (Link.discard .gap))

/-- BAD_FRAME (R169). -/
def execBadFrame (frame : Bytes) (s : State) : Result := .next (s.completeFrame frame)

/-- UNKNOWN_REQUEST (R171, R172). -/
def execUnknownRequest (tag code : Byte) (body : Bytes) (s : State) : Result := .next (s.takeFrame tag code body)

/-- TX_FRAME_END (R173, R174). -/
def execTxFrameEnd (s : State) : Result := .next (s.mapLink Link.endFrame)

/-- RXD_BYTE_RECEIVED (R167). -/
def execRxdByteReceived (byte : Byte) (s : State) : Result := .next (s.receiveByte byte)

end Sys2Proof.Machine
end

