-- ==== Sys2Proof/Machine/Resets.lean ====
section
/-! DEFINITION. BS and the surroundings: power-on, the pin reset, the start-up clear, host transfer completions and damage to the
storage cells (R154, R158 to R166, R179 to R181). -/

namespace Sys2Proof.Machine

/-- POWER_ON: no job, an empty link with the rate sampled, and the start-up clear at block 0; the content of the cells is a new
free value (R21, R163, R166, R180). The model's queue of commands is kept. -/
def State.powerOn (rate : LineRate) (s : State) : State :=
  { s.drawn with link := Link.reset rate, store := Store.powerOn s.freeIndex, job := none }

/-- A write to a block completes, or its content is left as a completed write leaves it (R154, R163). -/
def Store.clearBlock (index : Nat) (st : Store) : Store := st.writeBlock (storeIndex 0 index) (uniformBlock 0)

/-- The clear once the block being written is zeroed, to go on at a block: that block counts among the zeroed ones (R163). -/
def Clear.after (next : Nat) (c : Clear) : Clear where
  next := next
  cleared := max c.cleared (c.next + 1)
  consistent := c.consistent && decide (c.next < c.cleared)
  epoch := c.epoch

/-- One write of the start-up clear has completed (R163). -/
def Store.clearWritten (c : Clear) (st : Store) : Store :=
  let st := st.clearBlock c.next
  if c.next + 1 < Config.storeBlocks then
    { st with clear := some (c.after (c.next + 1)) }
  else { st with clear := none, inFlight := none, lastGranted := .lp }

/-- CLEAR_WRITE_COMPLETE: at the end of the clear READY is posted with cause POWER_ON (R163, R179). -/
def State.clearWriteComplete (s : State) : State :=
  match s.store.clear with
  | none => s
  | some c =>
    let s := s.mapStore (Store.clearWritten c)
    if s.store.clear.isSome then s else (s.post (.ready .powerOn)).transmit

/-- A pin reset during the start-up clear: the clear starts again from block 0; the write it cut left its block old or zeroed, and
its check word consistent (R164). -/
def Store.resetInClear (c : Clear) (keepsNew : Bool) (st : Store) : Store :=
  if keepsNew then { st.clearBlock c.next with clear := some (c.after 0) }
  else
    { st with
      damaged := st.damaged.filter (fun d => d.index != c.next)
      clear := some { c with next := 0, consistent := c.consistent || decide (c.next = c.cleared) } }

/-- A pin reset after the start-up clear: a write in flight leaves its block old or new, the store becomes free and LP is the last
granted (R164). -/
def Store.resetAfterClear (keepsNew : Bool) (st : Store) : Store :=
  let st := match st.inFlight with
    | some ⟨_, .write i content⟩ => if keepsNew then st.writeBlock i content else st
    | some ⟨_, .read _⟩ => st
    | none => st
  { st with inFlight := none, lastGranted := .lp }

/-- PIN_RESET, the whole of it from the fall to the rise of RST_N (R21, R164, R179, R180; log entries 6 and 23). -/
def State.pinReset (rate : LineRate) (s : State) : State :=
  let keepsNew := Config.resetKeepsNew s.freeIndex
  match s.store.clear with
  | some c => { s.drawn with link := Link.reset rate, store := s.store.resetInClear c keepsNew, job := none }
  | none =>
    (({ s.drawn with link := Link.reset rate, store := s.store.resetAfterClear keepsNew, job := none } : State).post
      (.ready .pin)).transmit

/-- HOST_TRANSFER_COMPLETE: the transaction of LP in flight completes, its reply is made and the next transfer is presented
(R155, R158 to R160). -/
def State.hostTransferComplete (s : State) : State :=
  match s.store.inFlight with
  | some ⟨.lp, .read i⟩ =>
    let s' := match s.store.readBlock i with
      | some content => s.freeStore.endTransfer .ok (.blockRead i.val content)
      | none => s.freeStore.endTransfer .checkFailed (.blockIndex i.val)
    s'.arbitrate.transmit
  | some ⟨.lp, .write i content⟩ =>
    (((s.freeStore.mapStore (fun st => st.writeBlock i content)).endTransfer .ok (.blockIndex i.val)).arbitrate).transmit
  | some ⟨.ru, _⟩ => s
  | some ⟨.ve, _⟩ => s
  | none => s

/-! ### The meanings -/

/-- POWER_ON (R163). -/
def execPowerOn (rate1 rate0 : Bool) (s : State) : Result := .next (s.powerOn (LineRate.ofStraps rate1 rate0))

/-- PIN_RESET (R180). -/
def execPinReset (rate1 rate0 : Bool) (s : State) : Result := .next (s.pinReset (LineRate.ofStraps rate1 rate0))

/-- CLEAR_WRITE_COMPLETE (R163). -/
def execClearWriteComplete (s : State) : Result := .next s.clearWriteComplete

/-- HOST_TRANSFER_COMPLETE (R158). -/
def execHostTransferComplete (s : State) : Result := .next s.hostTransferComplete

/-- BLOCK_DAMAGED (R154): the block's cells are left with the content given, and the block is damaged. -/
def execBlockDamaged (index : Nat) (content : Bytes) (s : State) : Result :=
  if h : index < Config.storeBlocks then .next (s.mapStore (fun st => st.damageBlock ⟨index, h⟩ content))
  else .fault (.noSuchBlock index)

end Sys2Proof.Machine
end

