-- ==== Sys2Proof/Machine/Dispatch.lean ====
section
/-! DEFINITION. The dispatch of a command to its meaning: one arm per constructor. -/

namespace Sys2Proof.Machine

/-- The effect of a command on everything but the queue of commands that wait. -/
def exec (i : Instr) (s : State) : Host.Outcome State Fault Refusal :=
  match i with
  | .powerOn rate1 rate0 => Sys2Proof.Machine.execPowerOn rate1 rate0 s
  | .pinReset rate1 rate0 => Sys2Proof.Machine.execPinReset rate1 rate0 s
  | .clearWriteComplete => Sys2Proof.Machine.execClearWriteComplete s
  | .frameLengthErr => Sys2Proof.Machine.execFrameLengthErr s
  | .frameGapExpiry => Sys2Proof.Machine.execFrameGapExpiry s
  | .badFrame frame => Sys2Proof.Machine.execBadFrame frame s
  | .unknownRequest tag code body => Sys2Proof.Machine.execUnknownRequest tag code body s
  | .identify tag body => Sys2Proof.Machine.execIdentify tag body s
  | .status tag body => Sys2Proof.Machine.execStatus tag body s
  | .loadJob tag body => Sys2Proof.Machine.execLoadJob tag body s
  | .run tag body => Sys2Proof.Machine.execRun tag body s
  | .pause tag body => Sys2Proof.Machine.execPause tag body s
  | .recover tag body => Sys2Proof.Machine.execRecover tag body s
  | .abort tag body => Sys2Proof.Machine.execAbort tag body s
  | .parcel tag body => Sys2Proof.Machine.execParcel tag body s
  | .getMap tag body => Sys2Proof.Machine.execGetMap tag body s
  | .getRepairs tag body => Sys2Proof.Machine.execGetRepairs tag body s
  | .fill tag body => Sys2Proof.Machine.execFill tag body s
  | .waive tag body => Sys2Proof.Machine.execWaive tag body s
  | .repairScan tag body => Sys2Proof.Machine.execRepairScan tag body s
  | .closeImage tag body => Sys2Proof.Machine.execCloseImage tag body s
  | .readBlock tag body => Sys2Proof.Machine.execReadBlock tag body s
  | .writeBlock tag body => Sys2Proof.Machine.execWriteBlock tag body s
  | .ackNotices tag body => Sys2Proof.Machine.execAckNotices tag body s
  | .replayNotices tag body => Sys2Proof.Machine.execReplayNotices tag body s
  | .txFrameEnd => Sys2Proof.Machine.execTxFrameEnd s
  | .sdTakeByte => Sys2Proof.Machine.execSdTakeByte s
  | .sdSuspend => Sys2Proof.Machine.execSdSuspend s
  | .sdHalt => Sys2Proof.Machine.execSdHalt s
  | .sdAbortStop => Sys2Proof.Machine.execSdAbortStop s
  | .gapHoldExpiry => Sys2Proof.Machine.execGapHoldExpiry s
  | .ruTakeItem => Sys2Proof.Machine.execRuTakeItem s
  | .ruReadComplete => Sys2Proof.Machine.execRuReadComplete s
  | .ruWriteComplete => Sys2Proof.Machine.execRuWriteComplete s
  | .ruQuiescingNotice => Sys2Proof.Machine.execRuQuiescingNotice s
  | .ruAbortStop => Sys2Proof.Machine.execRuAbortStop s
  | .veAbortStop => Sys2Proof.Machine.execVeAbortStop s
  | .scanAbortStop => Sys2Proof.Machine.execScanAbortStop s
  | .veReadComplete => Sys2Proof.Machine.execVeReadComplete s
  | .hostTransferComplete => Sys2Proof.Machine.execHostTransferComplete s
  | .scanVisit => Sys2Proof.Machine.execScanVisit s
  | .progressMonitorExpiry => Sys2Proof.Machine.execProgressMonitorExpiry s
  | .rxdByteReceived byte => Sys2Proof.Machine.execRxdByteReceived byte s
  | .blockDamaged index content => Sys2Proof.Machine.execBlockDamaged index content s

end Sys2Proof.Machine
end

