-- ==== Sys2Proof/Safety.lean ====
section
/-! DEFINITION. The laws that every step keeps, one predicate each: the statements about runs are made of them. -/

namespace Sys2Proof.Machine

/-! ### Laws of a part of the state -/

/-- The notice queue holds at most 8 notices, and their sequence numbers are consecutive modulo 256, rising from head to tail up
to the counter (R175). -/
def Link.NoticesInOrder (l : Link) : Prop :=
  l.notices.length ≤ Config.noticePlaces ∧
    l.notices.map (fun n => n.sequence)
      = (List.range l.notices.length).map (fun i => l.nextNotice - BitVec.ofNat 8 (l.notices.length - i))

/-- The request table holds at most 4 requests with different tags, each of them has exactly one reply waiting or one transfer
queued, and a reply being sent is the oldest of those waiting (R158, R171, R173). -/
def Link.OneAnswerEach (l : Link) : Prop :=
  l.table.length ≤ Config.tableEntries ∧ (l.table.map (fun e => e.tag)).Nodup ∧
    (l.replies.map (fun r => r.tag) ++ l.transfers.map (fun t => t.tag)).Perm (l.table.map (fun e => e.tag)) ∧
    ∀ r, l.sending = some (.reply r) → l.replies.head? = some r

/-- The link's counters stay in their widths (R170, R174, R178). -/
def Link.CountersInWidth (l : Link) : Prop :=
  l.errors.length ≤ linkCounterMax ∧ l.errors.gap ≤ linkCounterMax ∧ l.errors.crc ≤ linkCounterMax ∧
    l.errors.kind ≤ linkCounterMax ∧ l.errors.tag ≤ linkCounterMax ∧ l.errors.overrun ≤ linkCounterMax ∧
    l.dropped ≤ byteCounterMax ∧ l.replyRun ≤ 4

/-- The sixteen slots hold parcels of 1 to 512 bytes, each in the slot of its number and numbered in the window; the read offset
lies inside the parcel at B (R62, R67). -/
def Window.Sound (w : Window) : Prop :=
  w.slots.length = Config.windowSlots ∧ w.history.length ≤ Config.historyLength ∧
    (∀ i p, w.slots[i]? = some (some p) →
      p.sequence.toNat % Config.windowSlots = i ∧ w.distance p.sequence < Config.windowSlots
        ∧ 1 ≤ p.payload.length ∧ p.payload.length ≤ 512) ∧
    ∀ p, w.held? w.base = some p → w.readOffset < p.payload.length

/-- A list of ranges: at most 32, each of at least one block, ascending, none overlapping or adjacent (R30). -/
def RangesInOrder (rs : List BlockRange) : Prop :=
  rs.length ≤ Config.repairRanges ∧ (∀ r ∈ rs, 1 ≤ r.count) ∧ rs.Pairwise (fun a b => a.stop < b.first)

/-- CT's lists are in order, and the scan list lies below the scan position (R30, R39). -/
def Tracker.ListsInOrder (t : Tracker) : Prop :=
  RangesInOrder t.repairs ∧
    ∀ sc, t.scan = some sc → RangesInOrder sc.ranges ∧ ∀ r ∈ sc.ranges, r.stop ≤ sc.position

/-- The queue, the ring, the task queue and the job counters stay in their sizes (R4, R82, R83, R124). -/
def Job.InCapacity (j : Job) : Prop :=
  j.queue.length ≤ Config.queuePlaces ∧ j.ring.bytes.length ≤ Config.ringBytes ∧
    j.verifier.tasks.length ≤ Config.taskPlaces ∧
    j.counters.parcelsTaken ≤ jobCounterMax ∧ j.counters.duplicates ≤ jobCounterMax ∧
    j.counters.lateParcels ≤ jobCounterMax ∧ j.counters.staleParcels ≤ jobCounterMax ∧
    j.counters.numbersLost ≤ jobCounterMax ∧ j.counters.sectionsCompleted ≤ jobCounterMax ∧
    j.counters.sectionsAbandoned ≤ jobCounterMax ∧ j.counters.blocksWritten ≤ jobCounterMax ∧
    j.counters.blocksFilled ≤ jobCounterMax ∧ j.counters.digestMismatches ≤ jobCounterMax ∧
    j.counters.stalls ≤ jobCounterMax

/-- The job holds a fault record exactly while it is in QUIESCING or FAULTED (R6). -/
def Job.FaultRecordFits (j : Job) : Prop :=
  j.faultRecord.isSome = true ↔ j.phase = .quiescing ∨ j.phase = .faulted

/-- The gap hold timer runs exactly while its three conditions hold (R70), and the progress monitor is stopped outside RUNNING and
STOPPING (R119). -/
def Job.TimersFit (j : Job) : Prop :=
  (j.window.gapTimer ≠ .idle ↔ j.phase.inRun = true ∧ j.window.gap = true) ∧
    (j.phase.inRun = false → j.unit.monitor = .stopped)

/-! ### RU writes the target region only -/

/-- An item names target blocks only (R52, R57, R79). -/
def Item.inTarget (targetLength : Nat) : Item → Prop
  | .sectionBegin start => start ≤ targetLength
  | .block i => i.block < targetLength ∧ 1 ≤ i.increment
  | .sectionEnd _ start count _ => start + count ≤ targetLength
  | .abandon => True
  | .imageEnd _ => True

/-- A directive in hand is placed on a target block by an increment of at least 1, once its increment byte has come. -/
def PartialRecord.inTarget (targetLength : Nat) : PartialRecord → Prop
  | .nothing => True
  | .bytes _ => True
  | .directive p => (∀ b, p.block? = some b → b < targetLength) ∧ (p.stage = .increment ∨ 1 ≤ p.increment)

/-- A transaction of RU is a read, or a write of a target block. -/
def StoreOp.inTarget (d : Descriptor) : StoreOp → Prop
  | .read _ => True
  | .write i _ => d.targetFirst ≤ i.val ∧ i.val < d.targetFirst + d.targetLength

/-- A current item's blocks still to do are target blocks. -/
def CurrentItem.inTarget (targetLength : Nat) (c : CurrentItem) : Prop :=
  c.item.inTarget targetLength ∧ c.stop ≤ targetLength

/-- Every block number that the stream path holds is one of the target region's. -/
def Job.InTarget (j : Job) : Prop :=
  let d := j.descriptor
  let n := d.targetLength
  1 ≤ n ∧ d.targetFirst + n ≤ Config.storeBlocks ∧ j.tracker.map.length = n ∧ j.tracker.frontier ≤ n ∧
    (∀ c, j.decoder.context = some c → c.start + c.count ≤ n) ∧ j.decoder.record.inTarget n ∧
    (∀ i ∈ j.queue, i.inTarget n) ∧ (∀ i ∈ j.decoder.waitingOutput, i.inTarget n) ∧
    (∀ c, j.unit.item = some c → c.inTarget n) ∧ (∀ k, j.unit.block = some k → k.target < n) ∧
    (∀ f, j.unit.fill = some f → f.first + f.count ≤ n) ∧ (∀ op, j.unit.waiting = some op → op.inTarget d)

/-! ### Laws of the state -/

/-- A law of the job, where there is one. -/
def State.jobHas (P : Job → Prop) (s : State) : Prop := ∀ j, s.job = some j → P j

/-- RU's ABORT stop belongs to ABORTING, and a RU that has reported holds no store request (R118, R148, R150). -/
def Job.UnitStopFits (outstanding : Bool) (j : Job) : Prop :=
  (j.unitClear = true → j.phase = .aborting ∧ j.unit.waiting = none ∧ outstanding = false) ∧
    (j.signals.unitStop = true → j.phase = .aborting) ∧
    (j.unit.order = .stop → j.phase = .aborting ∧ j.unit.fill = none)

/-- RU's transaction in flight belongs to the job, and RU writes the job's target region only (R99, R150); while the start-up clear runs
there is no job and no transaction (R163). -/
def State.UnitWritesTarget (s : State) : Prop :=
  (s.store.clear.isSome = true → s.store.inFlight = none ∧ s.job = none) ∧
  match s.job with
  | none => s.store.outstanding .ru = false
  | some j =>
    j.InTarget ∧ j.UnitStopFits (s.store.outstanding .ru) ∧
      ∀ op, s.store.inFlight = some ⟨.ru, op⟩ → op.inTarget j.descriptor

/-! ### The repair list agrees with the map (R24, R30)

The laws of R30 are CT's, but they hold because of the order in which the stream path gives CT its reports: a write lies at or below F, a
fill, a task and a close below it. The predicates after the first two say that order. -/

/-- Every listed block lies below F and is EMPTY, CARRIED or SUSPECT; while the overflow flag is clear every such block below F is listed;
the blocks from F on are EMPTY (R24, R30). -/
def Tracker.ListExact (t : Tracker) : Prop :=
  (∀ r ∈ t.repairs, ∀ b, r.holds b = true → b < t.frontier ∧ (t.state b).listable = true) ∧
    (t.overflow = false → ∀ b, b < t.frontier → (t.state b).listable = true → ∃ r ∈ t.repairs, r.holds b = true) ∧
    ∀ b, t.frontier ≤ b → t.state b = .empty

/-- The scan list holds exactly the EMPTY, CARRIED and SUSPECT blocks below the scan position, which is at most F (R39, R40). -/
def Tracker.ScanExact (t : Tracker) : Prop :=
  ∀ sc, t.scan = some sc → sc.position ≤ t.frontier ∧
    ∀ b, b < sc.position → ((t.state b).listable = true ↔ ∃ r ∈ sc.ranges, r.holds b = true)

/-- Whether an item may come when a block is the next that its section covers: a BLOCK item covers it first, and a SECTION_END ends a
section that it lies behind (R52, R101). -/
def Item.follows (due : Option Nat) : Item → Prop
  | .block i => due = some (i.block + 1 - i.increment)
  | .sectionEnd _ start count _ => ∃ q, due = some q ∧ start + count ≤ q
  | .sectionBegin _ => True
  | .abandon => True
  | .imageEnd _ => True

/-- The next block to be covered after an item; none outside a section. -/
def Item.dueAfter (due : Option Nat) : Item → Option Nat
  | .sectionBegin start => some start
  | .block i => some (i.block + 1)
  | .sectionEnd _ _ _ _ => due
  | .abandon => none
  | .imageEnd _ => due

/-- Every item of a run of items may come where it stands. -/
def itemsFollow : Option Nat → List Item → Prop
  | _, [] => True
  | due, i :: rest => i.follows due ∧ itemsFollow (i.dueAfter due) rest

/-- The next block to be covered after a run of items. -/
def dueAfter (due : Option Nat) (items : List Item) : Option Nat := items.foldl Item.dueAfter due

/-- The next block that the directives of a section cover (R52). -/
def SectionContext.due (c : SectionContext) : Nat :=
  match c.lastPlaced with
  | some l => l + 1
  | none => c.start

/-- SD's place in its section agrees with the items it has produced (R52, R79). -/
def Decoder.placeFits (due : Option Nat) (d : Decoder) : Prop :=
  ∀ c, d.context = some c →
    match d.position, d.record with
    | .lead, _ => due = some c.due
    | .directive, .directive p =>
      (p.stage = .increment → due = some c.due) ∧
        (p.stage ≠ .increment →
          ∃ own, p.block? = some own ∧ c.lastPlaced = some own ∧ due = some (own + 1 - p.increment))
    | .trailer, _ => ∃ q, due = some q ∧ c.start + c.count ≤ q
    | _, _ => True

/-- RU's current item agrees with F: what it has done lies below F, and what comes next is at most F once it is done (R98, R104). -/
def ReconUnit.itemFits (frontier : Nat) (due : Option Nat) (u : ReconUnit) : Prop :=
  match u.item with
  | some ⟨.block i, next, stop⟩ => stop = i.block + 1 ∧ next < stop ∧ next ≤ frontier ∧ due = some stop
  | some ⟨.sectionBegin _, next, stop⟩ => next < stop ∧ stop ≤ frontier ∧ ∀ q, due = some q → q ≤ frontier
  | some ⟨.imageEnd _, next, stop⟩ => next < stop ∧ stop ≤ frontier ∧ ∀ q, due = some q → q ≤ frontier
  | some ⟨.sectionEnd _ start count _, _, _⟩ => start + count ≤ frontier ∧ ∀ q, due = some q → q ≤ frontier
  | some ⟨.abandon, _, _⟩ => False
  | none => ∀ q, due = some q → q ≤ frontier

/-- The block in hand is the current item's next one, or a FILL's block below F (R99, R112, R115). -/
def ReconUnit.blockFits (frontier : Nat) (u : ReconUnit) : Prop :=
  ∀ k, u.block = some k →
    match k.work with
    | .hostFill _ => u.activity = .fill ∧ k.target < frontier
    | .holeFill => u.activity = .hole ∧ ∃ item stop, u.item = some ⟨item, k.target, stop⟩ ∧
        ((∃ start, item = .sectionBegin start) ∨ ∃ digest, item = .imageEnd digest)
    | .skipped _ | .ownCopy _ | .ownSelf _ | .ownData => u.activity = .build ∧ ∃ i stop, u.item = some ⟨.block i, k.target, stop⟩

/-- The items on their way from SD to RU, what SD stands at and what RU holds, in the order of the stream. SD's place counts while SD may
still go on. -/
def Job.PathInOrder (j : Job) : Prop :=
  ∃ due : Option Nat,
    j.unit.itemFits j.tracker.frontier due ∧ itemsFollow due (j.queue ++ j.decoder.waitingOutput) ∧
      (j.decoder.running = true ∨ (j.decoder.faultMark = false ∧ j.phase ≠ .aborting) →
        j.decoder.placeFits (dueAfter due (j.queue ++ j.decoder.waitingOutput)))

/-- What RU, SD, VE and CT may be doing in a job state (R7, R15, R17, R90, R148); a RU in VERIFY_WAIT holds a SECTION_END with its task
(R101). -/
def Job.WorkFitsPhase (j : Job) : Prop :=
  (j.decoder.running = true → j.phase = .running ∨ j.phase = .stopping ∨ j.phase = .quiescing ∨ j.phase = .aborting) ∧
    (j.decoder.faultMark = true →
      j.decoder.running = false ∧ (j.phase = .quiescing ∨ j.phase = .faulted ∨ j.phase = .aborting)) ∧
    (j.signals.decoderStop = true → j.phase = .aborting) ∧ (j.signals.unitStop = true → j.phase = .aborting) ∧
    (j.unit.order = .stop → j.phase = .aborting) ∧
    (j.phase = .ready ∨ j.phase = .closing ∨ j.phase = .closed → j.unit.activity = .idle) ∧
    (j.phase = .faulted → j.unit.activity = .idle ∨ j.unit.activity = .halted) ∧
    (j.phase ≠ .aborting → j.unit.activity = .idle ∨ j.unit.activity = .fill → j.unit.item = none) ∧
    (j.unit.activity = .verifyWait → ∀ c, j.unit.item = some c → c.item.task? ≠ none) ∧
    (∀ f, j.unit.fill = some f → f.first + f.count ≤ j.tracker.frontier) ∧
    (∀ t ∈ j.verifier.tasks, t.start + t.count ≤ j.tracker.frontier) ∧
    (∀ c, j.verifier.close = some c →
      c.next < j.tracker.map.length ∧ j.tracker.map.length ≤ j.tracker.frontier ∧ (j.phase = .closing ∨ j.phase = .aborting)) ∧
    (j.tracker.scan.isSome = true → j.unit.block = none ∧ j.verifier.close = none ∧
      (j.phase = .servicing ∧ j.unit.activity = .idle ∨ j.phase = .aborting))

/-- The laws of the repair list (R30), with the order of the reports that keeps them. -/
def Job.ListLaws (j : Job) : Prop :=
  j.InTarget ∧ j.tracker.ListsInOrder ∧ j.tracker.ListExact ∧ j.tracker.ScanExact ∧ j.PathInOrder ∧
    j.unit.blockFits j.tracker.frontier ∧ j.WorkFitsPhase

end Sys2Proof.Machine
end

