-- ==== Sys2Proof/Certificates/Slice0/Obligations.lean ====
section
/-! DEFINITION. The statements for the provers. Those about a command give its whole next state, so that what they do not name is
unchanged; closeEvent, closeGranting, settleWork, arbitrate and transmit are what ends an event, and have statements of their own. -/

namespace Sys2Proof.Machine

/-! ### Words of the statements -/

/-- A good request frame passes the request table and is handed to its owner (R171, R172). -/
abbrev State.Accepts (s : State) (tag code : Byte) (body : Bytes) : Prop :=
  s.store.clear = none ∧ s.link.hasTag tag = false ∧ s.link.table.length < Config.tableEntries
    ∧ body.length ≤ Config.maxBody ∧ bodyLengthOk code body = true

/-- The state in which an accepted request is performed: it holds a table entry and the receiver hunts. -/
def State.entered (s : State) (tag code : Byte) : State := { s with link := s.link.enter tag code }

/-- The state after a request that is answered at once and changes nothing else. -/
def State.answered (s : State) (tag code : Byte) (status : ReplyStatus) (body : ReplyBody) : State :=
  ((s.entered tag code).reply tag status body).transmit

/-- The request code of a request command (R183). -/
def requestCodeOf : Instr → Option Byte
  | .identify _ _ => some 0x01
  | .status _ _ => some 0x02
  | .loadJob _ _ => some 0x10
  | .run _ _ => some 0x11
  | .pause _ _ => some 0x12
  | .recover _ _ => some 0x13
  | .abort _ _ => some 0x14
  | .parcel _ _ => some 0x20
  | .getMap _ _ => some 0x30
  | .getRepairs _ _ => some 0x31
  | .fill _ _ => some 0x32
  | .waive _ _ => some 0x33
  | .repairScan _ _ => some 0x34
  | .closeImage _ _ => some 0x38
  | .readBlock _ _ => some 0x40
  | .writeBlock _ _ => some 0x41
  | .ackNotices _ _ => some 0x50
  | .replayNotices _ _ => some 0x51
  | _ => none

/-- The row of R9's table that a job-level request is judged by. -/
def jobRequestOf : Instr → Option JobRequest
  | .loadJob _ _ => some .loadJob
  | .run _ _ => some .readyOnly
  | .pause _ _ => some .pause
  | .recover _ _ => some .recover
  | .abort _ _ => some .abort
  | .parcel _ _ => some .parcel
  | .getMap _ _ => some .account
  | .getRepairs _ _ => some .account
  | .fill _ _ => some .readyOnly
  | .waive _ _ => some .readyOnly
  | .repairScan _ _ => some .readyOnly
  | .closeImage _ _ => some .readyOnly
  | _ => none

/-- The ten job states in the order of R9's table; none is NONE. -/
def jobStates : List (Option JobPhase) :=
  [none, some .ready, some .running, some .stopping, some .quiescing, some .faulted, some .servicing, some .closing,
    some .closed, some .aborting]

/-- Whether the field of a descriptor with a number passes its test (the table of section 1.2, R1): the ranges lie in the store, the
two regions share no block, and the single fields are in their bounds. Fields 1, 7 and 11 take any value. -/
def descriptorFieldPasses (body : Bytes) : Nat → Prop
  | 2 => field body 2 2 ≤ 4095
  | 3 => field body 4 2 ≤ 2048 ∧ field body 2 2 + field body 4 2 ≤ 4096
  | 4 => field body 6 2 ≤ 4095
  | 5 => 1 ≤ field body 8 2 ∧ field body 8 2 ≤ 2048 ∧ field body 6 2 + field body 8 2 ≤ 4096 ∧
      ∀ k : Nat, ¬((field body 2 2 ≤ k ∧ k < field body 2 2 + field body 4 2)
        ∧ field body 6 2 ≤ k ∧ k < field body 6 2 + field body 8 2)
  | 6 => 1 ≤ field body 10 1 ∧ field body 10 1 ≤ 64
  | 8 => 1 ≤ field body 13 1 ∧ field body 13 1 ≤ 250
  | 9 => field body 14 1 ≤ 15
  | 10 => field body 15 1 ≤ 2
  | _ => True

/-- The bytes that the encoder writes for a record's bytes: a 00h directly after every E7h 1Dh (R46). -/
def stuffed : Bytes → Bytes
  | [] => []
  | [b] => [b]
  | a :: b :: rest => if a = 0xE7 ∧ b = 0x1D then a :: b :: 0x00 :: stuffed rest else a :: stuffed (b :: rest)

/-- The escape state after a run of bytes, with the stream bytes delivered; none where a marker or a violation is met. -/
def Escape.feed : Escape → Bytes → Option (Escape × Bytes)
  | e, [] => some (e, [])
  | e, b :: rest =>
    match e.step b with
    | .deliver e' delivered => (e'.feed rest).map (fun r => (r.1, delivered ++ r.2))
    | _ => none

/-- The bytes that an escape state holds (R46). -/
def Escape.holds : Escape → Bytes
  | .clear => []
  | .seenE7 => [0xE7]
  | .seenE71D => [0xE7, 0x1D]
  | .seenMarkerStart => [0xE7, 0x1D, 0x6B]

/-- The first transaction of a carry guess for a target block: the base block at the displacement of its column is read, or, where that
lies outside the base region, the fallback byte is written (R113). -/
def Job.guessOf (j : Job) (b : Nat) (fallback : Byte) : StoreOp :=
  let source : Int := (b : Int) + j.unit.carry.getD (b % j.descriptor.bandWidth) 0
  if 0 ≤ source ∧ source < j.descriptor.baseLength then .read (storeIndex j.descriptor.baseFirst source.toNat)
  else .write (storeIndex j.descriptor.targetFirst b) (List.replicate 512 fallback)

/-- The first transaction of a hole block under the fill policies CARRY and BYTE (R112). -/
def Job.holeOpOf (j : Job) (b : Nat) : StoreOp :=
  if j.descriptor.fillPolicy = .carry then j.guessOf b j.descriptor.fillByte
  else .write (storeIndex j.descriptor.targetFirst b) (List.replicate 512 j.descriptor.fillByte)

/-- A read is a block being read, a write a block being written. -/
def stepOf : StoreOp → BlockStep
  | .read _ => .reading
  | .write _ _ => .writing

/-- The REPAIR_OVERFLOW that a report to CT gives rise to outside ABORTING: the range not recorded or dropped, and the count 32 (R34). -/
def overflowNotices (jobId : Word16) : Option BlockRange → List Notice
  | some r => [.repairOverflow jobId r 32]
  | none => []

/-- The fault codes in the order of R139's table. -/
def faultCodes : List FaultCode :=
  [.badEscape, .badMarker, .badHeader, .sectionRange, .badDirective, .badIncrement, .blockOverrun, .editOverrun, .unexpectedMarker,
    .expectedMarker, .endMismatch, .sourceRange, .selfSource, .skipWithoutSource, .storeCheck]

/-- The bytes of a number in a field of two bytes, or zero where the field has no value (R188). -/
def fieldOrZero : Option Nat → Bytes
  | some n => le16 n
  | none => [0, 0]

end Sys2Proof.Machine

open Sys2Proof Sys2Proof.Machine

/-! ### Steps -/

/-- A step takes the command at the front of the queue and runs it with the queue's rest. -/
def Obligations.StepRunsFront : Prop :=
  ∀ (c : Instr) (s : State), step { s with pending := c :: s.pending } = exec c s

/-- No command touches the queue of commands that wait; on an empty queue the block idles (the model's choice, log entry 2). -/
def Obligations.QueueIsTakenByStepOnly : Prop :=
  (∀ (c : Instr) (s t : State), exec c s = .next t → t.pending = s.pending) ∧
  ∀ s : State, s.pending = [] → step s = .next s

/-- Every command completes in every state, but for BLOCK_DAMAGED of a block that does not exist. That fault is the model's (log entry
8), and so is the completion, without effect, of an event that cannot occur in the state (log entry 1). -/
def Obligations.EveryCommandCompletes : Prop :=
  ∀ (c : Instr) (s : State),
    (∃ t, exec c s = .next t)
      ∨ ∃ index content, c = .blockDamaged index content ∧ Config.storeBlocks ≤ index
        ∧ exec c s = .fault (.noSuchBlock index)

/-! ### The request table and the order of refusals -/

/-- A request whose tag is outstanding is discarded with TAG_ERR, and otherwise one that finds the table full with OVERRUN_ERR;
nothing else changes (R171; the counters of R170). -/
def Obligations.RequestTableDiscards : Prop :=
  ∀ (c : Instr) (tag : Byte) (body : Bytes) (s : State),
    (c.request? = some (tag, body) ∨ ∃ code, c = .unknownRequest tag code body) → body.length ≤ Config.maxBody →
    (s.link.hasTag tag = true →
      exec c s = .next { s with link := { s.link with
        receiver := .hunting
        errors := { s.link.errors with tag := min (s.link.errors.tag + 1) 65535 } } }) ∧
    (s.link.hasTag tag = false → Config.tableEntries ≤ s.link.table.length →
      exec c s = .next { s with link := { s.link with
        receiver := .hunting
        errors := { s.link.errors with overrun := min (s.link.errors.overrun + 1) 65535 } } })

/-- A request that takes an entry is answered NOT_READY while the start-up clear runs; after it, an unknown code is answered
UNKNOWN_REQUEST, and a body length wrong for the code BAD_LENGTH. Nothing else changes (R8, R172). -/
def Obligations.EarlyRefusalsAnswered : Prop :=
  (∀ (c : Instr) (tag code : Byte) (body : Bytes) (s : State),
    (c.request? = some (tag, body) ∧ requestCodeOf c = some code ∨ c = .unknownRequest tag code body ∧ code ∉ requestCodes) →
    body.length ≤ Config.maxBody → s.store.clear.isSome = true → s.link.hasTag tag = false →
    s.link.table.length < Config.tableEntries →
    exec c s = .next (s.answered tag code .notReady .empty)) ∧
  (∀ (tag code : Byte) (body : Bytes) (s : State),
    code ∉ requestCodes → body.length ≤ Config.maxBody → s.store.clear = none → s.link.hasTag tag = false →
    s.link.table.length < Config.tableEntries →
    exec (.unknownRequest tag code body) s = .next (s.answered tag code .unknownRequest .empty)) ∧
  ∀ (c : Instr) (tag code : Byte) (body : Bytes) (s : State),
    c.request? = some (tag, body) → requestCodeOf c = some code → bodyLengthOk code body = false →
    body.length ≤ Config.maxBody → s.store.clear = none → s.link.hasTag tag = false →
    s.link.table.length < Config.tableEntries →
    exec c s = .next (s.answered tag code .badLength .empty)

/-- The table of R9, row by row, in the order NONE, READY, RUNNING, STOPPING, QUIESCING, FAULTED, SERVICING, CLOSING, CLOSED,
ABORTING (none is "taken"); and a job-level request that it refuses is answered with the refusal and changes nothing else (R8). -/
def Obligations.JobStateTestOfR9 : Prop :=
  (let ws := some ReplyStatus.wrongState
   let busy := some ReplyStatus.busy
   let noJob := some ReplyStatus.noJob
   jobStates.map (jobTest .loadJob) = [none, ws, ws, ws, ws, ws, ws, ws, ws, ws] ∧
   jobStates.map (jobTest .readyOnly) = [noJob, none, busy, busy, busy, ws, busy, busy, ws, busy] ∧
   jobStates.map (jobTest .pause) = [noJob, ws, none, none, busy, ws, busy, busy, ws, busy] ∧
   jobStates.map (jobTest .recover) = [noJob, ws, busy, busy, busy, none, busy, busy, ws, busy] ∧
   jobStates.map (jobTest .abort) = [noJob, none, none, none, none, none, none, none, none, busy] ∧
   jobStates.map (jobTest .parcel) = [noJob, none, none, none, none, none, none, ws, ws, ws] ∧
   jobStates.map (jobTest .account) = [noJob, none, none, none, none, none, none, none, none, none]) ∧
  ∀ (c : Instr) (tag code : Byte) (body : Bytes) (s : State) (r : JobRequest) (refusal : ReplyStatus),
    c.request? = some (tag, body) → requestCodeOf c = some code → jobRequestOf c = some r → s.Accepts tag code body →
    jobTest r (s.job.map (fun j => j.phase)) = some refusal →
    exec c s = .next (s.answered tag code refusal .empty)

/-! ### JC's requests -/

/-- IDENTIFY is answered OK in every state once start-up is complete, with the same twelve bytes (R20, R186). -/
def Obligations.IdentifyAnswers : Prop :=
  (∀ (tag : Byte) (body : Bytes) (s : State), s.Accepts tag 0x01 body →
    exec (.identify tag body) s = .next (s.answered tag 0x01 .ok .identity)) ∧
  ReplyBody.identity.bytes = [0x5A, 0x4E, 0x40, 0x71, 0x02, 0x00, 0x10, 0x00, 0x02, 0x10, 0x10, 0x20]

/-- STATUS is answered OK with the values held at the event, and changes no state but the link's record of the request (R19). Its 92
bytes are laid out as R186 gives: zeros for the job where there is none, and zero for each value that is absent. Job states, stop reasons,
fault codes and fault origins have the codes of R183 and R139; the job state NONE is 0. -/
def Obligations.StatusAnswersSnapshot : Prop :=
  (∀ (tag : Byte) (body : Bytes) (s : State), s.Accepts tag 0x02 body →
    exec (.status tag body) s = .next (s.answered tag 0x02 .ok (.status
      { job := s.job.map (fun j =>
          { phase := j.phase, jobId := j.descriptor.jobId, stopReason := j.stopReason, endRecord := j.endRecord
            faultRecord := j.faultRecord, counters := j.counters, decoderRunning := j.decoder.running
            inSection := j.decoder.position.inSection, frontier := j.tracker.frontier
            repairCount := j.tracker.repairs.length, overflow := j.tracker.overflow, windowBase := j.window.base
            heldParcels := j.window.heldCount, queuedItems := j.queue.length, ringHeld := j.ring.bytes.length
            tasksHeld := j.verifier.tasks.length, taskInProgress := j.verifier.progress.isSome })
        errors := s.link.errors
        dropped := s.link.dropped }))) ∧
  (∀ n : StatusSnapshot,
    let links := le16 n.errors.length ++ le16 n.errors.gap ++ le16 n.errors.crc ++ le16 n.errors.kind ++ le16 n.errors.tag
      ++ le16 n.errors.overrun ++ le8 n.dropped
    n.bytes.length = 92 ∧
    (n.job = none → n.bytes = List.replicate 79 0 ++ links) ∧
    ∀ j, n.job = some j →
      let presence := 1 + (if j.stopReason = none then 0 else 2) + (if j.faultRecord = none then 0 else 4)
        + (if j.endRecord.digest = none then 0 else 8)
        + (match j.faultRecord with
          | some f => (if f.inSection? = none then 0 else 16) + (if f.block? = none then 0 else 32)
          | none => 0)
      n.bytes = [j.phase.code] ++ le8 presence ++ le16 j.jobId.toNat
        ++ [match j.stopReason with
          | some r => r.code
          | none => 0]
        ++ [if j.endRecord.seen then 1 else 0]
        ++ (match j.endRecord.digest with
          | some digest => le32 digest.toNat
          | none => [0, 0, 0, 0])
        ++ (match j.faultRecord with
          | some f => [f.code.code, f.code.origin.code] ++ fieldOrZero (f.inSection?.map (fun v => v.toNat)) ++ fieldOrZero f.block?
              ++ fieldOrZero (f.place?.map (fun v => v.sequence.toNat)) ++ fieldOrZero (f.place?.map (fun v => v.offset))
              ++ le8 f.secondary
          | none => List.replicate 11 0)
        ++ le32 j.counters.parcelsTaken ++ le32 j.counters.duplicates ++ le32 j.counters.lateParcels
        ++ le32 j.counters.staleParcels ++ le32 j.counters.numbersLost ++ le32 j.counters.sectionsCompleted
        ++ le32 j.counters.sectionsAbandoned ++ le32 j.counters.blocksWritten ++ le32 j.counters.blocksFilled
        ++ le32 j.counters.digestMismatches ++ le32 j.counters.stalls
        ++ [if j.decoderRunning then 1 else 0, if j.inSection then 1 else 0] ++ le16 j.frontier ++ le8 j.repairCount
        ++ [if j.overflow then 1 else 0] ++ le16 j.windowBase.toNat ++ le8 j.heldParcels ++ le8 j.queuedItems ++ le16 j.ringHeld
        ++ le8 j.tasksHeld ++ [if j.taskInProgress then 1 else 0] ++ links) ∧
  [JobPhase.ready, .running, .stopping, .quiescing, .faulted, .servicing, .closing, .closed, .aborting].map JobPhase.code
    = [1, 2, 3, 4, 5, 6, 7, 8, 9] ∧
  [StopReason.limit, .pause, .endOfImage].map StopReason.code = [1, 2, 3] ∧
  faultCodes.map FaultCode.code
    = [0x01, 0x02, 0x03, 0x04, 0x05, 0x06, 0x07, 0x08, 0x09, 0x0A, 0x0B, 0x20, 0x21, 0x22, 0x23] ∧
  faultCodes.map (fun c => c.origin.code) = [1, 1, 1, 1, 1, 1, 1, 1, 1, 1, 1, 2, 2, 2, 2] ∧
  FaultOrigin.decoder.code = 1 ∧ FaultOrigin.reconstruction.code = 2

/-- An accepted LOAD_JOB creates the job of its descriptor with every part at its first value, leaves the store alone, and is
answered OK (R2, R59, R78, R96). That the empty ring begins at place 0 is the model's choice (log entry 21). -/
def Obligations.LoadJobCreates : Prop :=
  ∀ (tag : Byte) (body : Bytes) (s : State) (d : Descriptor), s.Accepts tag 0x10 body → s.job = none →
    readDescriptor body = .ok d →
    let created : Job :=
      { descriptor := d, phase := .ready, stopReason := none, endRecord := ⟨false, none⟩, faultRecord := none
        counters := ⟨0, 0, 0, 0, 0, 0, 0, 0, 0, 0, 0⟩
        signals := ⟨false, false, false, false, false, false, false⟩
        decoderQuiet := false, unitClear := false, verifierClear := false
        window := ⟨d.firstSequence, List.replicate 16 none, 0, [], .idle⟩
        decoder := ⟨false, none, 0, 0, .seeking, .clear, [], .nothing, none, [], false⟩
        queue := [], ring := ⟨0, []⟩
        unit := ⟨.idle, none, none, none, none, List.replicate 64 0, none, .stopped, .work⟩
        tracker := ⟨List.replicate d.targetLength .empty, 0, [], false, none⟩
        verifier := ⟨[], none, none, none, false⟩ }
    exec (.loadJob tag body) s = .next { s.answered tag 0x10 .ok .empty with job := some created }

/-- LOAD_JOB names the first field of its body that fails its test of section 1.2 and creates no job; a descriptor is accepted when
every field passes, and holds the fields of the body (R1, R184). -/
def Obligations.LoadJobTestsDescriptor : Prop :=
  (∀ (tag : Byte) (body : Bytes) (s : State) (number : Nat), s.Accepts tag 0x10 body → s.job = none →
    readDescriptor body = .error number →
    exec (.loadJob tag body) s = .next (s.answered tag 0x10 .badParam (.badField number))) ∧
  (∀ (body : Bytes) (number : Nat), readDescriptor body = .error number →
    ¬descriptorFieldPasses body number ∧ ∀ earlier, earlier < number → descriptorFieldPasses body earlier) ∧
  (∀ body : Bytes, (∀ number, descriptorFieldPasses body number) → ∃ d, readDescriptor body = .ok d) ∧
  ∀ (body : Bytes) (d : Descriptor), readDescriptor body = .ok d →
    (∀ number, descriptorFieldPasses body number) ∧
    d.jobId.toNat = field body 0 2 ∧ d.baseFirst = field body 2 2 ∧ d.baseLength = field body 4 2 ∧
    d.targetFirst = field body 6 2 ∧ d.targetLength = field body 8 2 ∧ d.bandWidth = field body 10 1 ∧
    d.firstSequence.toNat = field body 11 2 ∧ d.gapHold = field body 13 1 ∧ d.progressPeriod = field body 14 1 ∧
    (d.fillPolicy = .carry ↔ field body 15 1 = 0) ∧ (d.fillPolicy = .byte ↔ field body 15 1 = 1) ∧
    (d.fillPolicy = .noFill ↔ field body 15 1 = 2) ∧ d.fillByte.toNat = field body 16 1

/-- RUN in READY with a limit that passes: RUNNING, SD running with the limit and both counts 0, the monitor and the gap hold timer
started as their rules give, reply OK. With nothing waiting at SD that is the whole job; else SD goes on from what waits (R10, R87,
R119; the waiting bytes in RUN's own event are log entry 15). A limit that fails is BAD_PARAM naming its field. -/
def Obligations.RunStartsTheRun : Prop :=
  (∀ body : Bytes,
    let mode := field body 0 1
    let count := field body 1 2
    (2 < mode → readLimit body = .error 1) ∧ (mode = 0 → readLimit body = .ok .continuous) ∧
    (mode = 1 → readLimit body = if 1 ≤ count ∧ count ≤ 4095 then .ok (.blocks count) else .error 2) ∧
    (mode = 2 → readLimit body = if 1 ≤ count ∧ count ≤ 255 then .ok (.sections count) else .error 2)) ∧
  ∀ (tag : Byte) (body : Bytes) (s : State) (j : Job), s.Accepts tag 0x11 body → s.job = some j → j.phase = .ready →
    (∀ number, readLimit body = .error number →
      exec (.run tag body) s = .next (s.answered tag 0x11 .badParam (.badField number))) ∧
    ∀ limit, readLimit body = .ok limit →
      let monitor : Monitor :=
        if j.descriptor.progressPeriod = 0 then j.unit.monitor else .running (j.descriptor.progressPeriod * 100)
      let started : Job := { j with
        phase := .running
        decoder := { j.decoder with running := true, limit := some limit, blocksCovered := 0, sectionsCompleted := 0 }
        unit := { j.unit with monitor := monitor } }
      exec (.run tag body) s = .next ((((s.entered tag 0x11).reply tag .ok .empty).settleWork ⟨started.wakeDecoder, []⟩).transmit)
      ∧ (j.decoder.waitingOutput = [] → j.decoder.waitingBytes = [] → j.window.gapTimer = .idle →
        let timer : GapTimer := if j.window.gap then .running j.descriptor.gapHold else .idle
        let running : Job := { started with window := { j.window with gapTimer := timer } }
        exec (.run tag body) s = .next { s.answered tag 0x11 .ok .empty with job := some running })

/-- PAUSE in RUNNING moves the job to STOPPING with reason PAUSE and tells SD to suspend; in STOPPING it changes nothing (R13).
RECOVER in FAULTED: the queue and ring emptied, RU and SD back at their starts, the fault record removed, READY, the rest of the job
kept (R146, R147, R93, R122). That the empty ring begins at place 0 is the model's choice (log entry 21). All are answered OK. -/
def Obligations.PauseAndRecover : Prop :=
  (∀ (tag : Byte) (body : Bytes) (s : State) (j : Job), s.Accepts tag 0x12 body → s.job = some j →
    (j.phase = .running → exec (.pause tag body) s = .next
      ((((s.entered tag 0x12).reply tag .ok .empty).settleWork
        ⟨{ j with phase := .stopping, stopReason := some .pause, signals := { j.signals with suspend := true } }, []⟩).transmit)) ∧
    (j.phase = .stopping → exec (.pause tag body) s = .next (s.answered tag 0x12 .ok .empty))) ∧
  ∀ (tag : Byte) (body : Bytes) (s : State) (j : Job), s.Accepts tag 0x13 body → s.job = some j → j.phase = .faulted →
    let recovered : Job := { j with
      phase := .ready
      faultRecord := none
      queue := []
      ring := ⟨0, []⟩
      decoder := { j.decoder with
        running := false, faultMark := false, position := .seeking, escape := .clear, waitingBytes := []
        record := .nothing, context := none, waitingOutput := [] }
      unit := { j.unit with activity := .idle, item := none, displacement := none, order := .work } }
    exec (.recover tag body) s = .next { s.answered tag 0x13 .ok .empty with job := some recovered }

/-- ABORT in every job state but ABORTING: ABORTING, no fault record, SD, RU, VE and CT told to stop, both timers stopped, reply
STARTED, the rest of the job and the store kept (R18, R148). Which of the four take their stop in ABORT's own event is a free value for
each, drawn by the model's own counter (log entries 18, 24); those that do stop as in the event of their own row, and the others are still told to. When RU and VE both stop in
that event and hold no transaction, the teardown is complete in it: the job is gone, and ABORTED is posted before the transmit arbiter
chooses, so that either frame may come first (R150). -/
def Obligations.AbortBeginsTeardown : Prop :=
  ∀ (tag : Byte) (body : Bytes) (s : State) (j : Job), s.Accepts tag 0x14 body → s.job = some j → j.phase ≠ .aborting →
    let sdStops := Config.decoderStopsAtOnce s.freeIndex
    let ruStops := Config.unitStopsAtOnce s.freeIndex
    let veStops := Config.verifierStopsAtOnce s.freeIndex
    let ctStops := Config.scanStopsAtOnce s.freeIndex
    let ruHolds := s.store.outstanding .ru
    let veHolds := s.store.outstanding .ve
    let aborting : Job := { j with
      phase := .aborting
      faultRecord := none
      signals := { j.signals with decoderStop := true, unitStop := true, verifierStop := true, scanStop := true }
      window := { j.window with gapTimer := .idle }
      unit := { j.unit with monitor := .stopped } }
    let unitStopped := aborting.stopUnit ruHolds
    let stopped : Job := { aborting with
      signals := { aborting.signals with
        decoderStop := !sdStops, unitStop := !ruStops, verifierStop := !veStops, scanStop := !ctStops }
      decoder := if sdStops then { j.decoder with
          running := false, waitingOutput := [], waitingBytes := [], record := .nothing }
        else j.decoder
      unit := if ruStops then unitStopped.unit else aborting.unit
      unitClear := if ruStops then unitStopped.unitClear else j.unitClear
      verifier := if veStops then ⟨[], none, none, none, veHolds⟩ else j.verifier
      verifierClear := if veStops then !veHolds else j.verifierClear
      tracker := if ctStops then { j.tracker with scan := none } else j.tracker }
    let started : State := { s.entered tag 0x14 with freeIndex := s.freeIndex + 1 }.reply tag .started .empty
    exec (.abort tag body) s = .next (({ started with job := some stopped }.teardown).transmit) ∧
    (stopped.unitClear = false ∨ stopped.verifierClear = false →
      exec (.abort tag body) s = .next ({ started with job := some stopped }.transmit)) ∧
    (ruStops = true → veStops = true → ruHolds = false → veHolds = false →
      exec (.abort tag body) s = .next ((({ started with job := none } : State).post (.aborted j.descriptor.jobId)).transmit) ∧
      (s.link.sending = none → s.link.replyRun = 4 → s.link.notices = [] →
        ∃ t, exec (.abort tag body) s = .next t ∧
          t.link.sending = some (.notice (.aborted j.descriptor.jobId) s.link.nextNotice)))

/-! ### PW -/

/-- The verdict of a parcel by its distance from B and what PW holds for it (R61). -/
def Obligations.VerdictTableOfR61 : Prop :=
  ∀ (w : Window) (n : Word16),
    let k := (n - w.base).toNat
    (k ≤ 15 → w.verdict n = if (w.held? n).isSome then .duplicate else .taken) ∧
    (16 ≤ k → k ≤ 32767 → w.verdict n = .ahead) ∧
    (32768 ≤ k → k ≤ 65503 → w.verdict n = .stale) ∧
    (65504 ≤ k → w.history[65535 - k]? = some .consumed → w.verdict n = .duplicate) ∧
    (65504 ≤ k → w.history[65535 - k]? = some .lost → w.verdict n = .late) ∧
    (65504 ≤ k → w.history[65535 - k]? = none → w.verdict n = .stale)

/-- A PARCEL in a state that takes it is answered OK with its verdict, B and the free slot count. TAKEN stores it in the slot of its
number and sets the read offset to 0 when it is numbered B; every other verdict leaves the slots, B, the offset and the history
alone; one counter grows (R61 to R65); the timer as R70 gives. -/
def Obligations.ParcelAnswered : Prop :=
  ∀ (tag : Byte) (body : Bytes) (s : State) (j : Job), s.Accepts tag 0x20 body → s.job = some j →
    jobTest .parcel (some j.phase) = none →
    ∃ j' : Job,
      exec (.parcel tag body) s = .next { s.answered tag 0x20 .ok
        (.parcel (j.window.verdict (parcelSequence body)) j.window.base j'.window.freeCount) with job := some j' } ∧
      j' = { j with window := j'.window, counters := j'.counters } ∧
      j'.window.base = j.window.base ∧ j'.window.history = j.window.history ∧
      (j.window.verdict (parcelSequence body) = .taken →
        j'.window.slots = j.window.slots.set ((parcelSequence body).toNat % 16) (some ⟨parcelSequence body, body.drop 2⟩) ∧
        j'.window.readOffset = (if parcelSequence body = j.window.base then 0 else j.window.readOffset) ∧
        j'.counters = { j.counters with parcelsTaken := min (j.counters.parcelsTaken + 1) 4294967295 }) ∧
      (j.window.verdict (parcelSequence body) ≠ .taken →
        j'.window.slots = j.window.slots ∧ j'.window.readOffset = j.window.readOffset) ∧
      (j.window.verdict (parcelSequence body) = .duplicate →
        j'.counters = { j.counters with duplicates := min (j.counters.duplicates + 1) 4294967295 }) ∧
      (j.window.verdict (parcelSequence body) = .late →
        j'.counters = { j.counters with lateParcels := min (j.counters.lateParcels + 1) 4294967295 }) ∧
      (j.window.verdict (parcelSequence body) = .stale →
        j'.counters = { j.counters with staleParcels := min (j.counters.staleParcels + 1) 4294967295 }) ∧
      (j.window.verdict (parcelSequence body) = .ahead → j'.counters = j.counters) ∧
      j'.window.gapTimer = (if j.phase.inRun = true ∧ j'.window.gap = true then
          (if j.window.gapTimer = .idle then .running j.descriptor.gapHold else j.window.gapTimer)
        else .idle)

/-- The gap hold timer expires: the numbers from B to the lowest held are recorded LOST, B moves to it, the count is added to the
numbers lost, up to 4294967295 and not in ABORTING (R4, R18), SD takes the discontinuity, and GAP names the first lost number, the count and the new B (R71 to R73). SD's part: with
its fault mark set, nothing; else the partial record, escape state, waiting bytes and context are dropped and SD seeks, and an open
section is counted as abandoned and gives an ABANDON item (R89, R92). -/
def Obligations.GapExpirySkips : Prop :=
  (∀ (s : State) (j : Job) (count : Nat), s.job = some j → j.window.gapTimer ≠ .idle → j.window.lowestHeld = some count →
    let skipped : Window := { j.window with
      history := (List.replicate count Fate.lost ++ j.window.history).take 32
      base := j.window.base + BitVec.ofNat 16 count
      readOffset := 0
      gapTimer := .idle }
    let counted : JobCounters := if j.phase = .aborting then j.counters
      else { j.counters with numbersLost := min (j.counters.numbersLost + count) 4294967295 }
    exec .gapHoldExpiry s = .next (s.closeEvent
      ⟨({ j with window := skipped, counters := counted } : Job).discontinuity,
        [.gap j.descriptor.jobId j.window.base count (j.window.base + BitVec.ofNat 16 count)]⟩)) ∧
  (∀ (w : Window) (count : Nat), w.lowestHeld = some count ↔
    count < 16 ∧ (w.held? (w.base + BitVec.ofNat 16 count)).isSome = true
      ∧ ∀ k, k < count → w.held? (w.base + BitVec.ofNat 16 k) = none) ∧
  ∀ j : Job,
    (j.decoder.faultMark = true → j.discontinuity = j) ∧
    (j.decoder.faultMark = false → j.phase ≠ .aborting →
      let dropped : Job := { j with
        ring := ⟨j.ring.head, j.ring.bytes.take (j.ring.bytes.length - j.decoder.record.uncommitted)⟩
        decoder := { j.decoder with
          position := .seeking, escape := .clear, waitingBytes := [], record := .nothing, context := none } }
      (j.decoder.sectionOpen = false → j.discontinuity = dropped) ∧
      (j.decoder.sectionOpen = true → j.discontinuity = Job.produce [.abandon] { dropped with counters :=
        { j.counters with sectionsAbandoned := min (j.counters.sectionsAbandoned + 1) 4294967295 } }))

/-! ### SD -/

/-- The match table of R46, and what it comes to: a record's bytes as the encoder stuffs them meet no marker and no violation, and
all of them are delivered in order but for the bytes that the escape state still holds. -/
def Obligations.EscapeTableOfR46 : Prop :=
  (∀ b : Byte,
    (Escape.clear.step b = if b = 0xE7 then .deliver .seenE7 [] else .deliver .clear [b]) ∧
    (Escape.seenE7.step b =
      if b = 0x1D then .deliver .seenE71D [] else if b = 0xE7 then .deliver .seenE7 [0xE7] else .deliver .clear [0xE7, b]) ∧
    (Escape.seenE71D.step b =
      if b = 0x00 then .deliver .clear [0xE7, 0x1D] else if b = 0x6B then .deliver .seenMarkerStart [] else .violation) ∧
    Escape.seenMarkerStart.step b = .kindByte b) ∧
  (∀ bytes : Bytes, ∃ (e : Escape) (delivered : Bytes),
    Escape.clear.feed (stuffed bytes) = some (e, delivered) ∧ delivered ++ e.holds = bytes)

/-- SD takes the byte offered when it runs, nothing waits at it and a parcel is held for B: the byte goes through the escape match
with its parcel number and offset; the read offset advances, or at the parcel's last byte the slot is freed, B is recorded CONSUMED
and advances by one (R66, R67, R80). What the match comes to: the delivered bytes are processed in order; a valid marker opens its record
while seeking or where one is expected, and is UNEXPECTED_MARKER elsewhere; a bad marker or an escape violation is passed over while
seeking, an E7h examined again, and is BAD_MARKER or BAD_ESCAPE elsewhere (R45 to R48, R79), reported with the section number and the
target block that R91 gives. A stream byte processed gives its items to the queue and then the limit test; a fault ends the processing; a
byte that cannot be processed waits with those behind it, and SD goes on from what waits once the cause has gone (R80, R83, R85, R86). -/
def Obligations.SdTakesByte : Prop :=
  (∀ (s : State) (j : Job) (p : Parcel) (b : Byte), s.job = some j → j.decoder.running = true →
    j.decoder.waitingOutput = [] → j.decoder.waitingBytes = [] → j.window.held? j.window.base = some p →
    p.payload[j.window.readOffset]? = some b →
    exec .sdTakeByte s = .next (s.closeEvent ⟨Job.matchByte ⟨b, ⟨j.window.base, j.window.readOffset⟩⟩ { j with window :=
      if j.window.readOffset + 1 < p.payload.length then { j.window with readOffset := j.window.readOffset + 1 }
      else { j.window with
        slots := j.window.slots.set (j.window.base.toNat % 16) none
        history := (.consumed :: j.window.history).take 32
        base := j.window.base + 1
        readOffset := 0 } }, []⟩)) ∧
  (∀ (j : Job) (b : StreamByte),
    let d := j.decoder
    let cleared : Job := { j with decoder := { d with escape := .clear } }
    let number : Option Word16 :=
      if d.position = .seeking ∨ d.position = .endBody ∨ d.position = .header then none else d.context.map (fun c => c.number)
    let block : Option Nat :=
      match d.record with
      | .directive p => if d.position = .directive then p.block? else none
      | .nothing | .bytes _ => none
    (∀ e bytes, d.escape.step b.value = .deliver e bytes →
      Job.matchByte b j = Job.processBytes (bytes.map (fun v => ⟨v, b.place⟩)) { j with decoder := { d with escape := e } }) ∧
    (d.escape = .seenMarkerStart → b.value = 0x51 ∨ b.value = 0x5E →
      (d.position = .seeking ∨ d.position = .markerExpected →
        Job.matchByte b j = { j with decoder := { d with
          escape := .clear, position := if b.value = 0x51 then .header else .endBody, record := .bytes [] } }) ∧
      (d.position ≠ .seeking → d.position ≠ .markerExpected →
        Job.matchByte b j = cleared.decoderFault .unexpectedMarker number block b.place)) ∧
    (d.escape = .seenMarkerStart → b.value ≠ 0x51 → b.value ≠ 0x5E →
      (d.position = .seeking → Job.matchByte b j = { j with decoder := { d with
        escape := if b.value = 0xE7 then .seenE7 else .clear } }) ∧
      (d.position ≠ .seeking → Job.matchByte b j = cleared.decoderFault .badMarker number block b.place)) ∧
    (d.escape.step b.value = .violation →
      (d.position = .seeking → Job.matchByte b j = { j with decoder := { d with
        escape := if b.value = 0xE7 then .seenE7 else .clear } }) ∧
      (d.position ≠ .seeking → Job.matchByte b j = j.decoderFault .badEscape number block b.place))) ∧
  (∀ (j : Job) (b : StreamByte) (rest : List StreamByte), j.decoder.faultMark = false →
    let parsed := j.decoder.parse j.descriptor.targetLength j.descriptor.bandWidth j.ring b.value
    let waits : Job := { j with decoder := { j.decoder with waitingBytes := b :: rest } }
    (j.decoder.running = false ∨ j.decoder.waitingOutput ≠ [] → Job.processBytes (b :: rest) j = waits) ∧
    (j.decoder.running = true → j.decoder.waitingOutput = [] →
      (parsed = .ringFull → Job.processBytes (b :: rest) j = waits) ∧
      (∀ code number block, parsed = .fault code number block →
        Job.processBytes (b :: rest) j = j.decoderFault code number block b.place) ∧
      (∀ d ring items, parsed = .done d ring items → Job.processBytes (b :: rest) j = Job.processBytes rest
        (Job.testLimit (items.any Item.isImageEnd) (Job.produce items { j with decoder := d, ring := ring }))))) ∧
  (∀ j : Job, Job.processBytes [] j = { j with decoder := { j.decoder with waitingBytes := [] } }) ∧
  ∀ (j : Job) (items : List Item),
    let output := j.decoder.waitingOutput ++ items
    let pushed := output.take (16 - j.queue.length)
    let covered : Item → Nat := fun i => match i with
      | .block k => k.increment
      | .sectionBegin _ | .sectionEnd _ _ _ _ | .abandon | .imageEnd _ => 0
    let ended : Item → Nat := fun i => match i with
      | .sectionEnd _ _ _ _ => 1
      | .sectionBegin _ | .block _ | .abandon | .imageEnd _ => 0
    j.produce items = { j with
      queue := j.queue ++ pushed
      decoder := { j.decoder with
        waitingOutput := output.drop (16 - j.queue.length)
        blocksCovered := j.decoder.blocksCovered + (pushed.map covered).sum
        sectionsCompleted := j.decoder.sectionsCompleted + (pushed.map ended).sum } } ∧
    j.wakeDecoder =
      (let tested := if j.decoder.waitingOutput = [] then j.produce []
        else Job.testLimit (j.decoder.waitingOutput.any Item.isImageEnd) (j.produce [])
       Job.processBytes tested.decoder.waitingBytes tested)

/-- A stream byte in the grammar, by the point at which SD stands. While seeking it is passed over, and where a marker must stand it is
EXPECTED_MARKER (R48). A section header has seven bytes and is decided at the last, by its sum and flags and then by its range (R49, R50);
an end record has seven, decided by its sum and then by the length (R57); a trailer has four (R56). A lead byte gives kind and edit count
(R51); the increment byte places the directive (R51, R52); then come its operand and its edits (R51, R55), whose data go to the ring while
it has room (R83; the number of a ring place is the model's, log entry 21). A complete directive gives its BLOCK item, and the last of a section leads to the trailer, or gives SECTION_END where
there is none (R79, R84). Faults carry the section number and the target block of R91. -/
def Obligations.StreamGrammar : Prop :=
  (∀ (length width : Nat) (ring : Ring) (b : Byte) (d : Decoder),
    let parsed := d.parse length width ring b
    let number : Option Word16 := d.context.map (fun c => c.number)
    (d.position = .seeking → parsed = .done d ring []) ∧
    (d.position = .markerExpected → parsed = .fault .expectedMarker number none) ∧
    (∀ held, d.record = .bytes held →
      let got := held ++ [b]
      let more : ParseOutcome := .done { d with record := .bytes got } ring []
      (d.position = .header ∨ d.position = .endBody → held.length < 6 → parsed = more) ∧
      (d.position = .header → held.length = 6 →
        let headerNumber : Word16 := BitVec.ofNat 16 (field got 0 2)
        let start := field got 2 2
        let count := field got 4 1
        ((0x51 + (got.map BitVec.toNat).sum) % 256 ≠ 0 ∨ 1 < field got 5 1 →
          parsed = .fault .badHeader (some headerNumber) none) ∧
        ((0x51 + (got.map BitVec.toNat).sum) % 256 = 0 → field got 5 1 ≤ 1 →
          parsed = if 1 ≤ count ∧ start + count ≤ length ∧ start % width + count ≤ width then
            .done { d with
              position := .lead
              record := .nothing
              context := some ⟨headerNumber, start, count, decide (field got 5 1 = 1), none, true, false⟩ } ring
              [.sectionBegin start]
          else .fault .sectionRange (some headerNumber) none)) ∧
      (d.position = .endBody → held.length = 6 →
        ((0x5E + (got.map BitVec.toNat).sum) % 256 ≠ 0 → parsed = .fault .badHeader none none) ∧
        ((0x5E + (got.map BitVec.toNat).sum) % 256 = 0 →
          parsed = if field got 0 2 = length then
            .done { d with position := .seeking, record := .nothing } ring [.imageEnd (BitVec.ofNat 32 (field got 2 4))]
          else .fault .endMismatch none none)) ∧
      (d.position = .trailer → held.length < 3 → parsed = more) ∧
      (∀ c, d.position = .trailer → held.length = 3 → d.context = some c →
        parsed = .done { d with
          position := .markerExpected, record := .nothing, context := some { c with endPushed := true } } ring
          [.sectionEnd c.number c.start c.count (some (BitVec.ofNat 32 (field got 0 4)))])) ∧
    (d.position = .lead →
      let code := b.toNat / 32
      let edits := b.toNat % 32
      let kind : DirectiveKind := if code = 0 then .copyKeep else if code = 1 then .copyNew else if code = 2 then .self
        else if code = 3 then .literal else .fill
      parsed = if 5 ≤ code ∨ (3 ≤ code ∧ edits ≠ 0) then .fault .badDirective number none
        else .done { d with
          position := .directive, record := .directive ⟨kind, edits, 0, none, .copyKeep, 0, [], 0, .increment⟩ } ring []) ∧
    (∀ c p, d.position = .directive → d.context = some c → d.record = .directive p →
      let tail := (ring.head + ring.bytes.length) % 4096
      let staged (q : PartialDirective) (stage : DirectiveStage) : ParseOutcome :=
        .done { d with record := .directive { q with stage := stage } } ring []
      let bad : ParseOutcome := .fault .badDirective (some c.number) p.block?
      let pushed : Ring := { ring with bytes := ring.bytes ++ [b] }
      let grown : PartialDirective := { p with uncommitted := p.uncommitted + 1 }
      let again (stage : DirectiveStage) : ParseOutcome :=
        .done { d with record := .directive { grown with stage := stage } } pushed []
      (p.stage = .increment →
        let own := match c.lastPlaced with
          | some l => l + b.toNat
          | none => c.start + b.toNat - 1
        let c' : SectionContext := { c with lastPlaced := some own }
        let placed : PartialDirective := { p with increment := b.toNat, block? := some own }
        let d' : Decoder := { d with context := some c' }
        (b.toNat = 0 ∨ 16 < b.toNat → parsed = .fault .badIncrement (some c.number) none) ∧
        (1 ≤ b.toNat → b.toNat ≤ 16 → c.start + c.count ≤ own → parsed = .fault .blockOverrun (some c.number) (some own)) ∧
        (1 ≤ b.toNat → b.toNat ≤ 16 → own < c.start + c.count →
          (p.kind = .copyKeep → parsed = d'.nextEdit c' placed ring) ∧
          (p.kind = .copyNew ∨ p.kind = .self ∨ p.kind = .fill →
            parsed = .done { d' with record := .directive { placed with stage := .operand [] } } ring []) ∧
          (p.kind = .literal →
            parsed = .done { d' with record := .directive { placed with stage := .literal tail 0 } } ring []))) ∧
      (∀ held, p.stage = .operand held →
        let raw := field (held ++ [b]) 0 2
        let displacement : Int := if raw < 32768 then (raw : Int) else (raw : Int) - 65536
        (p.kind = .copyNew ∨ p.kind = .self → held = [] → parsed = staged p (.operand [b])) ∧
        (p.kind = .copyNew → held.length = 1 →
          parsed = if -2048 ≤ displacement ∧ displacement ≤ 2047 then
            d.nextEdit c { p with directive := .copyNew displacement } ring else bad) ∧
        (p.kind = .self → held.length = 1 →
          parsed = if 1 ≤ raw ∧ raw ≤ 2047 then d.nextEdit c { p with directive := .self raw } ring else bad) ∧
        (p.kind = .fill → held = [] → parsed = d.nextEdit c { p with directive := .fill b } ring)) ∧
      (∀ place taken, p.stage = .literal place taken →
        (4096 ≤ ring.bytes.length → parsed = .ringFull) ∧
        (ring.bytes.length < 4096 → taken < 511 → parsed = again (.literal place (taken + 1))) ∧
        (ring.bytes.length < 4096 → taken = 511 → parsed = d.nextEdit c { grown with directive := .literal place } pushed)) ∧
      (∀ held, p.stage = .editHead held →
        let skip := field (held ++ [b]) 0 2
        (held = [] → parsed = staged p (.editHead [b])) ∧
        (held.length = 1 → parsed = if skip ≤ 511 then staged p (.editHead (held ++ [b])) else bad) ∧
        (held.length = 2 →
          (b.toNat = 0 ∨ 64 < b.toNat → parsed = bad) ∧
          (1 ≤ b.toNat → b.toNat ≤ 64 →
            parsed = if p.cursor + skip + b.toNat ≤ 512 then
              staged { p with cursor := p.cursor + skip + b.toNat } (.editData (p.cursor + skip) b.toNat tail 0)
            else .fault .editOverrun (some c.number) p.block?))) ∧
      (∀ offset count place taken, p.stage = .editData offset count place taken →
        (4096 ≤ ring.bytes.length → parsed = .ringFull) ∧
        (ring.bytes.length < 4096 → taken + 1 < count → parsed = again (.editData offset count place (taken + 1))) ∧
        (ring.bytes.length < 4096 → count ≤ taken + 1 →
          parsed = d.nextEdit c { grown with edits := p.edits ++ [⟨offset, count, place⟩] } pushed)))) ∧
  ∀ (ring : Ring) (d : Decoder) (c : SectionContext) (p : PartialDirective) (own : Nat), p.block? = some own →
    let item : Item := .block ⟨c.number, own, p.increment, p.directive, p.edits⟩
    (p.edits.length < p.editCount →
      d.nextEdit c p ring = .done { d with record := .directive { p with stage := .editHead [] } } ring []) ∧
    (p.editCount ≤ p.edits.length →
      (own + 1 ≠ c.start + c.count → d.nextEdit c p ring = .done { d with position := .lead, record := .nothing } ring [item]) ∧
      (own + 1 = c.start + c.count → c.hasDigest = true →
        d.nextEdit c p ring = .done { d with position := .trailer, record := .bytes [] } ring [item]) ∧
      (own + 1 = c.start + c.count → c.hasDigest = false →
        d.nextEdit c p ring = .done { d with
          position := .markerExpected, record := .nothing, context := some { c with endPushed := true } } ring
          [item, .sectionEnd c.number c.start c.count none]))

/-- At a byte that decides a fault SD stops with its fault mark set, drops its partial record with its ring bytes, its escape state
and its waiting bytes, keeps its position and context; at a fault of RU, RU is HALTED with nothing in hand and its request dropped (R90, R116). JC takes the
report, whoever makes it: the first fault of a run makes the record, with no secondary fault, and moves the job to QUIESCING, with the
stop reason kept, the halt sent to SD and the quiescing notice to RU (R140, R141). In QUIESCING a report adds one to the secondary fault
count, up to 255, and changes nothing else at JC (R142); in any other job state, ABORTING among them, it is discarded (R18, R140). -/
def Obligations.DecoderFaultStops : Prop :=
  (∀ (j : Job) (r : FaultRecord), j.phase.inRun = true →
    j.reportFault r = { j with
      phase := .quiescing
      faultRecord := some r
      decoderQuiet := false
      signals := { j.signals with halt := true, quiescing := true } }) ∧
  (∀ (j : Job) (code : FaultCode) (number : Option Word16) (b : Nat), j.phase.inRun = true →
    j.unitFault code number b = { j with
      unit := { j.unit with activity := .halted, block := none, waiting := none }
      phase := .quiescing
      faultRecord := some ⟨code, number, some b, none, 0⟩
      decoderQuiet := false
      signals := { j.signals with halt := true, quiescing := true } }) ∧
  (∀ (j : Job) (code : FaultCode) (number : Option Word16) (block : Option Nat) (place : StreamPlace),
    j.phase.inRun = true →
    j.decoderFault code number block place = { j with
      ring := ⟨j.ring.head, j.ring.bytes.take (j.ring.bytes.length - j.decoder.record.uncommitted)⟩
      decoder := { j.decoder with
        running := false, faultMark := true, escape := .clear, waitingBytes := [], record := .nothing }
      phase := .quiescing
      faultRecord := some ⟨code, number, block, some place, 0⟩
      decoderQuiet := false
      signals := { j.signals with halt := true, quiescing := true } }) ∧
  (∀ (j : Job) (code : FaultCode) (number : Option Word16) (block : Option Nat) (place : StreamPlace) (r : FaultRecord),
    j.phase = .quiescing → j.faultRecord = some r →
    j.decoderFault code number block place = { j with
      ring := ⟨j.ring.head, j.ring.bytes.take (j.ring.bytes.length - j.decoder.record.uncommitted)⟩
      decoder := { j.decoder with
        running := false, faultMark := true, escape := .clear, waitingBytes := [], record := .nothing }
      faultRecord := some { r with secondary := min (r.secondary + 1) 255 } }) ∧
  (∀ (j : Job) (code : FaultCode) (number : Option Word16) (b : Nat) (r : FaultRecord),
    j.phase = .quiescing → j.faultRecord = some r →
    j.unitFault code number b = { j with
      unit := { j.unit with activity := .halted, block := none, waiting := none }
      faultRecord := some { r with secondary := min (r.secondary + 1) 255 } }) ∧
  ∀ (j : Job) (r : FaultRecord), j.phase.inRun = false → j.phase ≠ .quiescing → j.reportFault r = j

/-- SD takes the suspension and the halt: a running SD becomes STOPPED with all else kept; the suspension reports reason PAUSE,
which JC, already in STOPPING, leaves; the halt reports quiet in QUIESCING (R87, R141). That a suspension which SD has not taken when its
run is over stays given, and taken in a later run moves the job to STOPPING with PAUSE, is the model's (log entry 13). SD takes the ABORT
stop: STOPPED, with its waiting output, waiting bytes and partial record dropped (R94). -/
def Obligations.SdTakesOrders : Prop :=
  ∀ (s : State) (j : Job), s.job = some j →
    (j.signals.suspend = true → j.phase ≠ .running →
      exec .sdSuspend s = .next (s.closeEvent ⟨{ j with
        signals := { j.signals with suspend := false }
        decoder := { j.decoder with running := false } }, []⟩)) ∧
    (j.signals.suspend = true → j.phase = .running → j.decoder.running = false →
      exec .sdSuspend s = .next (s.closeEvent ⟨{ j with signals := { j.signals with suspend := false } }, []⟩)) ∧
    (j.signals.suspend = true → j.phase = .running → j.decoder.running = true →
      exec .sdSuspend s = .next (s.closeEvent ⟨{ j with
        signals := { j.signals with suspend := false }
        phase := .stopping
        stopReason := some .pause
        decoder := { j.decoder with running := false } }, []⟩)) ∧
    (j.signals.halt = true →
      exec .sdHalt s = .next (s.closeEvent ⟨{ j with
        signals := { j.signals with halt := false }
        decoder := { j.decoder with running := false }
        decoderQuiet := if j.phase = .quiescing then true else j.decoderQuiet }, []⟩)) ∧
    (j.signals.decoderStop = true →
      exec .sdAbortStop s = .next (s.closeEvent ⟨{ j with
        signals := { j.signals with decoderStop := false }
        decoder := { j.decoder with running := false, waitingOutput := [], waitingBytes := [], record := .nothing } }, []⟩))

/-- A running SD whose output is all pushed stops of its own accord: with reason END after an IMAGE_END, else with reason LIMIT when
a run count has reached the limit's count (R11, R86). JC takes the report in RUNNING: the job is STOPPING with that reason. In every
other job state SD is STOPPED all the same, and the job state and the stop reason already given stay (R12, R143). While a BLOCKS or
SECTIONS limit is not reached, in a CONTINUOUS run, and while output waits or SD is STOPPED, it does not stop. -/
def Obligations.SdStopsAtLimit : Prop :=
  (∀ (j : Job) (ended : Bool), j.phase = .running → j.decoder.running = true → j.decoder.waitingOutput = [] →
    (ended = true → j.testLimit ended = { j with
      phase := .stopping, stopReason := some .endOfImage, decoder := { j.decoder with running := false } }) ∧
    (ended = false → ∀ n, (j.decoder.limit = some (.blocks n) ∧ n ≤ j.decoder.blocksCovered
        ∨ j.decoder.limit = some (.sections n) ∧ n ≤ j.decoder.sectionsCompleted) →
      j.testLimit ended = { j with
        phase := .stopping, stopReason := some .limit, decoder := { j.decoder with running := false } })) ∧
  (∀ (j : Job) (ended : Bool), j.phase ≠ .running → j.decoder.running = true → j.decoder.waitingOutput = [] →
    (ended = true ∨ (∃ n, j.decoder.limit = some (.blocks n) ∧ n ≤ j.decoder.blocksCovered)
        ∨ ∃ n, j.decoder.limit = some (.sections n) ∧ n ≤ j.decoder.sectionsCompleted) →
      j.testLimit ended = { j with decoder := { j.decoder with running := false } }) ∧
  ∀ j : Job,
    (∀ n, j.decoder.limit = some (.blocks n) → j.decoder.blocksCovered < n → j.testLimit false = j) ∧
    (∀ n, j.decoder.limit = some (.sections n) → j.decoder.sectionsCompleted < n → j.testLimit false = j) ∧
    (j.decoder.limit = some .continuous → j.testLimit false = j) ∧
    ∀ ended, (j.decoder.running = false ∨ j.decoder.waitingOutput ≠ [] → j.testLimit ended = j)

/-! ### CT -/

/-- A range added to the list: what the list covers afterwards is what it covered and the range, when the range touches a listed one
or a place is free; otherwise the list is unchanged and the overflow flag is set. A block removed: no range holds it afterwards and
every other block is held as before, unless a split at capacity drops the upper part of the block's range, which sets the flag. The
map and F stay, and REPAIR_OVERFLOW names the range when the flag goes from clear to set (R31 to R34). -/
def Obligations.RepairListChanges : Prop :=
  (∀ (t : Tracker) (r : BlockRange), 1 ≤ r.count → RangesInOrder t.repairs →
    let a := t.addRange r
    RangesInOrder a.tracker.repairs ∧ a.tracker.map = t.map ∧ a.tracker.frontier = t.frontier ∧
    ((∃ x ∈ t.repairs, x.first ≤ r.first + r.count ∧ r.first ≤ x.first + x.count) ∨ t.repairs.length < 32 →
      a.tracker.overflow = t.overflow ∧ a.overflowed = none ∧
      ∀ b, (∃ x ∈ a.tracker.repairs, x.holds b = true) ↔ (∃ x ∈ t.repairs, x.holds b = true) ∨ r.holds b = true) ∧
    ((∀ x ∈ t.repairs, ¬(x.first ≤ r.first + r.count ∧ r.first ≤ x.first + x.count)) → 32 ≤ t.repairs.length →
      a.tracker.repairs = t.repairs ∧ a.tracker.overflow = true ∧
      a.overflowed = if t.overflow then none else some r)) ∧
  ∀ (t : Tracker) (b : Nat), RangesInOrder t.repairs →
    let a := t.removeBlock b
    RangesInOrder a.tracker.repairs ∧ a.tracker.map = t.map ∧ a.tracker.frontier = t.frontier ∧
    (∀ x ∈ a.tracker.repairs, x.holds b = false) ∧
    ((t.repairs.length < 32 ∨ ∀ x ∈ t.repairs, ¬(x.first < b ∧ b + 1 < x.first + x.count)) →
      a.tracker.overflow = t.overflow ∧ a.overflowed = none ∧
      ∀ k, k ≠ b → ((∃ x ∈ a.tracker.repairs, x.holds k = true) ↔ ∃ x ∈ t.repairs, x.holds k = true)) ∧
    (∀ x ∈ t.repairs, 32 ≤ t.repairs.length → x.first < b → b + 1 < x.first + x.count →
      a.tracker.overflow = true ∧ a.tracker.repairs.length = t.repairs.length ∧
      (a.overflowed = if t.overflow then none else some ⟨b + 1, x.first + x.count - (b + 1)⟩) ∧
      ∀ k, k ≠ b → ((∃ y ∈ a.tracker.repairs, y.holds k = true)
        ↔ (∃ y ∈ t.repairs, y.holds k = true) ∧ ¬(b < k ∧ k < x.first + x.count)))

/-- Reports to CT: a write sets the block WRITTEN, or SUSPECT when tainted, and moves F past it; a fill sets it CARRIED, or WAIVED
when final, and leaves F; a section result sets its blocks VERIFIED or SUSPECT; a hole request for a start above F finds the hole from F
up to it and moves F to it. Every other block keeps its state (R24 to R28). A section result that changes the state of a block below the
scan position starts the walk again, with the position at 0, the scan list empty and the found-more mark clear; any other leaves the walk
as it is (R40). -/
def Obligations.ReportsChangeTheMap : Prop :=
  ∀ (t : Tracker) (b : Nat), b < t.map.length →
    (∀ tainted k, (t.writeReport b tainted).tracker.state k
        = (if k = b then (if tainted then .suspect else .written) else t.state k) ∧
      (t.writeReport b tainted).tracker.frontier = max t.frontier (b + 1)) ∧
    (∀ final k, (t.fillReport b final).tracker.state k
        = (if k = b then (if final then .waived else .carried) else t.state k) ∧
      (t.fillReport b final).tracker.frontier = t.frontier) ∧
    (∀ start count outcome k, k < t.map.length →
      (t.sectionResult start count outcome).tracker.state k
        = (if start ≤ k ∧ k < start + count then (if outcome = .isMatch then .verified else .suspect) else t.state k) ∧
      (t.sectionResult start count outcome).tracker.frontier = t.frontier) ∧
    (∀ start count outcome,
      let after := (t.sectionResult start count outcome).tracker
      (t.scan = none → after.scan = none) ∧
      ∀ sc, t.scan = some sc →
        ((∃ k, k < sc.position ∧ after.state k ≠ t.state k) → after.scan = some ⟨0, [], false⟩) ∧
        ((∀ k, k < sc.position → after.state k = t.state k) → after.scan = some sc)) ∧
    (∀ start k, (t.holeRequest start).1.tracker.state k = t.state k ∧
      (t.holeRequest start).1.tracker.frontier = max t.frontier start ∧
      (t.holeRequest start).2 = (if t.frontier < start then ⟨t.frontier, start - t.frontier⟩ else ⟨start, 0⟩))

/-- GET_MAP and GET_REPAIRS read the account and change nothing but the link's record of the request (R36, R37).
The body of the latter carries F, the overflow flag, the range count and each range, in ascending order where the list is in order. -/
def Obligations.AccountRequestsRead : Prop :=
  (∀ (tag : Byte) (body : Bytes) (s : State) (j : Job), s.Accepts tag 0x30 body → s.job = some j →
    let first := field body 0 2
    let count := field body 2 2
    exec (.getMap tag body) s = .next (
      if 1 ≤ count ∧ count ≤ 256 ∧ first + count ≤ j.descriptor.targetLength then
        s.answered tag 0x30 .ok (.map first count j.tracker.frontier
          ((List.range count).map (fun i => j.tracker.map.getD (first + i) .empty)))
      else s.answered tag 0x30 .badParam (.badField 2))) ∧
  (∀ (tag : Byte) (body : Bytes) (s : State) (j : Job), s.Accepts tag 0x31 body → s.job = some j →
    exec (.getRepairs tag body) s = .next (s.answered tag 0x31 .ok
      (.repairs j.tracker.frontier j.tracker.overflow j.tracker.repairs))) ∧
  (∀ (frontier : Nat) (overflow : Bool) (ranges : List BlockRange), (ReplyBody.repairs frontier overflow ranges).bytes
    = le16 frontier ++ [if overflow then 1 else 0] ++ le8 ranges.length ++ ranges.flatMap (fun r => le16 r.first ++ le16 r.count)) ∧
  ∀ ranges : List BlockRange, RangesInOrder ranges → ranges.length ≤ 32 ∧ ranges.Pairwise (fun a b => a.first < b.first)

/-- WAIVE in READY: every CARRIED or SUSPECT block of the range becomes WAIVED and leaves the list, every other block keeps its
state; the reply counts the blocks waived and the EMPTY ones left; the job stays READY and posts no notice but REPAIR_OVERFLOW. A
count below 1 or a range past F is BAD_PARAM naming field 2 (R38, R184). -/
def Obligations.WaiveWaives : Prop :=
  ∀ (tag : Byte) (body : Bytes) (s : State) (j : Job), s.Accepts tag 0x33 body → s.job = some j → j.phase = .ready →
    let first := field body 0 2
    let count := field body 2 2
    let blocks := (List.range count).map (fun i => first + i)
    (¬(1 ≤ count ∧ first + count ≤ j.tracker.frontier) →
      exec (.waive tag body) s = .next (s.answered tag 0x33 .badParam (.badField 2))) ∧
    (1 ≤ count → first + count ≤ j.tracker.frontier → ∃ (t : Tracker) (ns : List Notice),
      exec (.waive tag body) s = .next ((((s.entered tag 0x33).reply tag .ok (.waived
        (blocks.filter (fun b => j.tracker.state b = .carried ∨ j.tracker.state b = .suspect)).length
        (blocks.filter (fun b => j.tracker.state b = .empty)).length)).finishWork ⟨{ j with tracker := t }, ns⟩).transmit) ∧
      (ns = [] ∨ ∃ r, ns = [.repairOverflow j.descriptor.jobId r 32]) ∧
      t.frontier = j.tracker.frontier ∧
      (RangesInOrder j.tracker.repairs → ∀ k, first ≤ k → k < first + count →
        j.tracker.state k = .carried ∨ j.tracker.state k = .suspect → ∀ x ∈ t.repairs, x.holds k = false) ∧
      ∀ k, k < j.tracker.map.length → t.state k =
        if first ≤ k ∧ k < first + count ∧ (j.tracker.state k = .carried ∨ j.tracker.state k = .suspect) then .waived
        else j.tracker.state k)

/-- REPAIR_SCAN in READY is answered STARTED and puts the walk at block 0 with nothing found; the job is SERVICING (R15, R39). One
visit below F moves the position on, or ends the walk at F or with the found-more mark at a 33rd range; when the walk ends, the scan
list replaces the repair list, the overflow flag is settled, the job returns to READY and SCAN_DONE is posted after any
REPAIR_OVERFLOW (R41). With F = 0 the walk ends at its first visit (log entry 16). From an ABORT no block is visited, and CT's ABORT stop
discards the walk; the live list stays as it stood (R42). -/
def Obligations.RepairScanWalks : Prop :=
  (∀ (tag : Byte) (body : Bytes) (s : State) (j : Job), s.Accepts tag 0x34 body → s.job = some j → j.phase = .ready →
    let scanning : Job := { j with phase := .servicing, tracker := { j.tracker with scan := some ⟨0, [], false⟩ } }
    exec (.repairScan tag body) s = .next { s.answered tag 0x34 .started .empty with job := some scanning }) ∧
  (∀ (s : State) (j : Job) (sc : Scan), s.job = some j → j.tracker.scan = some sc → j.phase = .servicing →
    let visited := if sc.position < j.tracker.frontier then sc.visit (j.tracker.state sc.position) else sc
    (visited.foundMore = false → visited.position < j.tracker.frontier →
      exec .scanVisit s = .next (s.closeEvent ⟨{ j with tracker := { j.tracker with scan := some visited } }, []⟩)) ∧
    (visited.foundMore = true ∨ j.tracker.frontier ≤ visited.position →
      exec .scanVisit s = .next (s.closeEvent ⟨{ j with
          phase := .ready
          tracker := { j.tracker with repairs := visited.ranges, scan := none, overflow := visited.foundMore } },
        (if visited.foundMore = true ∧ j.tracker.overflow = false then
          [.repairOverflow j.descriptor.jobId ⟨visited.position, 1⟩ 32] else [])
          ++ [.scanDone j.descriptor.jobId visited.ranges.length visited.foundMore]⟩))) ∧
  (∀ (sc : Scan),
    (∀ c, c = Coverage.written ∨ c = Coverage.verified ∨ c = Coverage.waived →
      sc.visit c = { sc with position := sc.position + 1 }) ∧
    (∀ c before r, c = Coverage.empty ∨ c = Coverage.carried ∨ c = Coverage.suspect → sc.ranges = before ++ [r] →
      r.first + r.count = sc.position →
      sc.visit c = { sc with position := sc.position + 1, ranges := before ++ [⟨r.first, r.count + 1⟩] }) ∧
    (∀ c, c = Coverage.empty ∨ c = Coverage.carried ∨ c = Coverage.suspect →
      (∀ r, sc.ranges.getLast? = some r → r.first + r.count ≠ sc.position) →
      sc.visit c = if sc.ranges.length < 32 then
          { sc with position := sc.position + 1, ranges := sc.ranges ++ [⟨sc.position, 1⟩] }
        else { sc with foundMore := true })) ∧
  (∀ (s : State) (j : Job), s.job = some j → j.phase = .aborting → exec .scanVisit s = .next s) ∧
  ∀ (s : State) (j : Job), s.job = some j → j.signals.scanStop = true →
    exec .scanAbortStop s = .next (s.closeEvent ⟨{ j with
      signals := { j.signals with scanStop := false }
      tracker := { j.tracker with scan := none } }, []⟩)

/-! ### RU -/

/-- RU, idle in RUNNING or STOPPING, takes the head of the queue: it leaves the queue, SD pushes what waits into the place freed, and
the item's work begins. With nothing waiting at SD that is all; else the order of the two is a free value (R85, R98; log entry 9). -/
def Obligations.RuTakesHead : Prop :=
  ∀ (s : State) (j : Job) (item : Item) (rest : List Item), s.job = some j → j.phase.inRun = true → j.unit.activity = .idle →
    j.queue = item :: rest →
    let left : Job := { j with queue := rest }
    let unitFirst : Work := (Work.mk left []).beginItem item (s.store.outstanding .ve)
    let decoderFirst : Work := (Work.mk left.wakeDecoder []).beginItem item (s.store.outstanding .ve)
    (j.decoder.waitingOutput = [] → j.decoder.waitingBytes = [] →
      exec .ruTakeItem s = .next (s.closeGranting ⟨unitFirst.job.wakeDecoder, unitFirst.notices⟩)) ∧
    (j.decoder.waitingOutput ≠ [] ∨ j.decoder.waitingBytes ≠ [] →
      exec .ruTakeItem s = .next ({ s with freeIndex := s.freeIndex + 1 }.closeGranting
        (if Config.decoderFirst s.freeIndex then decoderFirst
          else ⟨unitFirst.job.wakeDecoder, unitFirst.notices⟩)))

/-- What beginning an item does: a SECTION_BEGIN sets the running displacement to 0, and is finished when there is no hole; an
ABANDON sets it to none and does nothing else; a SECTION_END without digest counts the section; one with a digest hands its task to
VE when a place is free, else waits in VERIFY_WAIT; an IMAGE_END with no hole records its digest (R25, R100 to R103, R125). A hole, from F
to the section's start or to the end of the target, is listed by CT, which moves F to its end; under NONE the item is then finished, and
else RU is in HOLE with the first hole block in hand, to be read or written as the fill policy gives (R25, R100, R103, R112, R113). A BLOCK
item with increment i at block b puts RU in BUILD with the blocks b - i + 1 to b to do, and the first of them is in hand with the first
transaction that its test gives, or RU is HALTED with the fault of its test reported (R98, R99, R104, R116). -/
def Obligations.ItemsBegin : Prop :=
  ∀ (j : Job) (outstanding : Bool), j.phase.inRun = true →
    (∀ start, start ≤ j.tracker.frontier → (Work.mk j []).beginItem (.sectionBegin start) outstanding
      = ⟨{ j with unit := { j.unit with displacement := some 0 } }, []⟩) ∧
    (Work.mk j []).beginItem .abandon outstanding = ⟨{ j with unit := { j.unit with displacement := none } }, []⟩ ∧
    (∀ number start count, (Work.mk j []).beginItem (.sectionEnd number start count none) outstanding
      = ⟨{ j with counters := { j.counters with
          sectionsCompleted := min (j.counters.sectionsCompleted + 1) 4294967295 } }, []⟩) ∧
    (∀ number start count digest, j.verifier.tasks.length < 4 →
      (Work.mk j []).beginItem (.sectionEnd number start count (some digest)) outstanding
      = ⟨Job.beginTask outstanding { j with
          counters := { j.counters with sectionsCompleted := min (j.counters.sectionsCompleted + 1) 4294967295 }
          verifier := { j.verifier with tasks := j.verifier.tasks ++ [⟨number, start, count, digest⟩] } }, []⟩) ∧
    (∀ number start count digest, 4 ≤ j.verifier.tasks.length →
      (Work.mk j []).beginItem (.sectionEnd number start count (some digest)) outstanding
      = ⟨{ j with
          counters := { j.counters with sectionsCompleted := min (j.counters.sectionsCompleted + 1) 4294967295 }
          unit := { j.unit with
            activity := .verifyWait
            item := some ⟨.sectionEnd number start count (some digest), 0, 0⟩ } }, []⟩) ∧
    (∀ item : BlockItem,
      let first := item.block + 1 - item.increment
      let held : Job := { j with unit := { j.unit with
        activity := .build
        item := some ⟨.block item, first, item.block + 1⟩ } }
      (Work.mk j []).beginItem (.block item) outstanding = ⟨match held.planBlock item first with
        | .ok (work, op) => { held with unit := { held.unit with block := some ⟨first, stepOf op, work⟩, waiting := some op } }
        | .error code => Job.reportFault ⟨code, some item.sectionNumber, some first, none, 0⟩
            { held with unit := { held.unit with activity := .halted, block := none, waiting := none } }, []⟩) ∧
    (∀ digest, j.descriptor.targetLength ≤ j.tracker.frontier → (Work.mk j []).beginItem (.imageEnd digest) outstanding
      = ⟨{ j with endRecord := ⟨true, some digest⟩ }, []⟩) ∧
    ∀ stop, j.tracker.frontier < stop →
      let first := j.tracker.frontier
      let listed := j.tracker.addRange ⟨first, stop - first⟩
      let notices := overflowNotices j.descriptor.jobId listed.overflowed
      let moved : Job := { j with tracker := { listed.tracker with frontier := stop } }
      let op := j.holeOpOf first
      let filling (item : Item) (displacement : Option Int) : Job := { moved with unit := { j.unit with
        displacement := displacement
        activity := .hole
        item := some ⟨item, first, stop⟩
        block := some ⟨first, stepOf op, .holeFill⟩
        waiting := some op } }
      (j.descriptor.fillPolicy = .noFill → (Work.mk j []).beginItem (.sectionBegin stop) outstanding
        = ⟨{ moved with unit := { j.unit with displacement := some 0 } }, notices⟩) ∧
      (j.descriptor.fillPolicy ≠ .noFill → (Work.mk j []).beginItem (.sectionBegin stop) outstanding
        = ⟨filling (.sectionBegin stop) (some 0), notices⟩) ∧
      ∀ digest, stop = j.descriptor.targetLength →
        (j.descriptor.fillPolicy = .noFill → (Work.mk j []).beginItem (.imageEnd digest) outstanding
          = ⟨{ moved with endRecord := ⟨true, some digest⟩ }, notices⟩) ∧
        (j.descriptor.fillPolicy ≠ .noFill → (Work.mk j []).beginItem (.imageEnd digest) outstanding
          = ⟨filling (.imageEnd digest) j.unit.displacement, notices⟩)

/-- The source tests and first transactions of a BLOCK item's blocks (R104 to R107): a skipped block and COPY_KEEP use the running
displacement, COPY_NEW its own, SELF a target block that is not EMPTY; LITERAL and FILL-kind need no read. -/
def Obligations.BlockPlans : Prop :=
  ∀ (j : Job) (i : BlockItem) (b : Nat),
    let d := j.descriptor
    let copy (work : Int → BlockWork) (e : Int) : BlockPlan :=
      if 0 ≤ (b : Int) + e ∧ (b : Int) + e < d.baseLength then
        .ok (work e, .read (storeIndex d.baseFirst ((b : Int) + e).toNat))
      else .error .sourceRange
    (b < i.block → j.planBlock i b = match j.unit.displacement with
      | none => .error .skipWithoutSource
      | some e => copy .skipped e) ∧
    (i.block ≤ b → i.directive = .copyKeep → j.planBlock i b = match j.unit.displacement with
      | none => .error .skipWithoutSource
      | some e => copy .ownCopy e) ∧
    (∀ e, i.block ≤ b → i.directive = .copyNew e → j.planBlock i b = copy .ownCopy e) ∧
    (∀ n, i.block ≤ b → i.directive = .self n → (b < n ∨ j.tracker.state (b - n) = .empty) →
      j.planBlock i b = .error .selfSource) ∧
    (∀ n, i.block ≤ b → i.directive = .self n → n ≤ b → j.tracker.state (b - n) ≠ .empty →
      j.planBlock i b = .ok (.ownSelf (decide (j.tracker.state (b - n) = .carried ∨ j.tracker.state (b - n) = .suspect)),
        .read (storeIndex d.targetFirst (b - n)))) ∧
    (∀ v, i.block ≤ b → i.directive = .fill v →
      j.planBlock i b = .ok (.ownData, .write (storeIndex d.targetFirst b) (List.replicate 512 v))) ∧
    ∀ place, i.block ≤ b → i.directive = .literal place →
      j.planBlock i b = .ok (.ownData, .write (storeIndex d.targetFirst b) (j.ring.slice place 512))

/-- RU's read completes outside ABORTING: the write of the block is requested with the bytes read, edited for a directive's own
block; a failed check is STORE_CHECK for a stream block, and gives the fallback byte in a hole or FILL (R99, R108, R113, R116).
In ABORTING the block ends without a write, and after its ABORT stop RU reports to JC (R118, R149); that a read which completes in ABORTING
before RU's stop ends its block so too is the model's reading (log entry 11). The edits are the current BLOCK item's: each replaces the
bytes from its offset to offset + length - 1 with its data bytes from the ring, where they may wrap from the last place to the first, and
the bytes that no edit reaches are kept (R83, R108; the number of a ring place is the model's, log entry 21). -/
def Obligations.RuReadCompletes : Prop :=
  (∀ (s : State) (j : Job) (i : BlockIndex) (k : BlockInHand), s.job = some j → s.store.inFlight = some ⟨.ru, .read i⟩ →
    j.phase ≠ .aborting → j.unit.block = some k →
    ∃ j' : Job,
      exec .ruReadComplete s = .next ({ s with store := { s.store with inFlight := none } }.closeGranting ⟨j', []⟩) ∧
      (∀ data, s.store.readBlock i = some data →
        j' = match k.work with
          | .skipped _ | .ownData | .holeFill | .hostFill _ => { j with unit := { j.unit with
              block := some ⟨k.target, .writing, k.work⟩
              waiting := some (.write (storeIndex j.descriptor.targetFirst k.target) data) } }
          | .ownCopy _ | .ownSelf _ => { j with unit := { j.unit with
              block := some ⟨k.target, .writing, k.work⟩
              waiting := some (.write (storeIndex j.descriptor.targetFirst k.target)
                (applyEdits j.ring j.unit.itemEdits data)) } }) ∧
      (s.store.readBlock i = none → (∃ e, k.work = .skipped e ∨ k.work = .ownCopy e) ∨ (∃ t, k.work = .ownSelf t) →
        j' = Job.reportFault ⟨.storeCheck, j.unit.itemSection, some k.target, none, 0⟩
          { j with unit := { j.unit with activity := .halted, block := none, waiting := none } }) ∧
      (s.store.readBlock i = none → k.work = .holeFill →
        j' = { j with unit := { j.unit with
          block := some ⟨k.target, .writing, .holeFill⟩
          waiting := some (.write (storeIndex j.descriptor.targetFirst k.target) (List.replicate 512 j.descriptor.fillByte)) } }) ∧
      (∀ f final, s.store.readBlock i = none → k.work = .hostFill final → j.unit.fill = some f →
        j' = { j with unit := { j.unit with
          block := some ⟨k.target, .writing, .hostFill final⟩
          waiting := some (.write (storeIndex j.descriptor.targetFirst k.target) (List.replicate 512 f.value)) } })) ∧
  (∀ (s : State) (j : Job) (i : BlockIndex), s.job = some j → s.store.inFlight = some ⟨.ru, .read i⟩ → j.phase = .aborting →
    ∃ j' : Job,
      exec .ruReadComplete s = .next ({ s with store := { s.store with inFlight := none } }.closeGranting ⟨j', []⟩) ∧
      j'.unit.block = none ∧ j' = { j with unit := j'.unit, unitClear := j'.unitClear } ∧
      (j.unit.order = .stop → j'.unitClear = true ∧ j'.unit.waiting = none) ∧
      (j.unit.order ≠ .stop → j' = { j with unit := { j.unit with block := none } })) ∧
  (∀ (u : ReconUnit) (item : BlockItem) (next stop : Nat), u.item = some ⟨.block item, next, stop⟩ →
    u.itemEdits = item.edits ∧ u.itemSection = some item.sectionNumber) ∧
  (∀ (ring : Ring) (place length k : Nat),
    (ring.slice place length)[k]? = if k < length then ring.bytes[(place + 4096 - ring.head) % 4096 + k]? else none) ∧
  ∀ (ring : Ring) (edits : List Edit) (data : Bytes), data.length = 512 →
    (∀ e ∈ edits, e.offset + e.length ≤ 512 ∧ (e.place + 4096 - ring.head) % 4096 + e.length ≤ ring.bytes.length) →
    edits.Pairwise (fun a b => a.offset + a.length ≤ b.offset) →
    let edited := applyEdits ring edits data
    edited.length = 512 ∧
    (∀ e ∈ edits, ∀ n, n < e.length → edited[e.offset + n]? = ring.bytes[(e.place + 4096 - ring.head) % 4096 + n]?) ∧
    ∀ i, (∀ e ∈ edits, ¬(e.offset ≤ i ∧ i < e.offset + e.length)) → edited[i]? = data[i]?

/-- RU's write completes: the store holds the bytes, and one event at RU, CT, VE and the monitor follows (R109, R155). CT's state of
the block is the one of its kind, and no task that covers the block is left, but for one handed over in this event. Then, stated where VE
holds no task and nothing waits at SD: the block is counted as written or as filled, but for ABORTING, where JC discards the report; the
monitor restarts in a run; a copy leaves its displacement in the carry table (R109, R111, R149). The own block of a BLOCK item finishes
the item: RU is IDLE, the item's ring bytes are freed, and the running displacement becomes what R110 gives; a tainted SELF block is
reported tainted. A skipped block is followed by the item's next block, or by the fault of its test (R104, R116), and a hole block by the
next; the last hole block finishes the item, an IMAGE_END with its digest recorded, unless RU has stopped (R103, R112). After the
quiescing notice no block follows, and RU is HALTED with the rest of the item undone (R117). After the ABORT stop no block follows,
RU holds no block and no request, and its report to JC is made (R118, R149, R150); its activity there is log entry 12. A FILL's block is followed by the
range's next block that is EMPTY, CARRIED or SUSPECT, or, after the last, by READY, an idle RU and FILL_DONE (R15, R115); after the ABORT
stop by nothing (R118). That a REPAIR_OVERFLOW of the same event is posted before FILL_DONE is the model's reading (log entry 19). -/
def Obligations.RuWriteCompletes : Prop :=
  (∀ (s : State) (j : Job) (i : BlockIndex) (content : Bytes), s.job = some j →
    s.store.inFlight = some ⟨.ru, .write i content⟩ →
    exec .ruWriteComplete s = .next
      ({ s with store := { s.store.writeBlock i content with inFlight := none } }.closeGranting
        ((Work.mk j []).unitWrite false))) ∧
  (∀ (j : Job) (k : BlockInHand), j.unit.block = some k → k.target < j.tracker.map.length →
    let after := ((Work.mk j []).unitWrite false).job
    after.tracker.state k.target = (match k.work with
      | .skipped _ | .ownCopy _ | .ownData => .written
      | .ownSelf tainted => if tainted then .suspect else .written
      | .holeFill => .carried
      | .hostFill final => if final then .waived else .carried) ∧
    (∀ t ∈ after.verifier.tasks, t ∈ j.verifier.tasks ∨ some t = j.unit.item.bind (fun c => c.item.task?)) ∧
    (j.unit.activity ≠ .verifyWait → ∀ t ∈ after.verifier.tasks, t.covers k.target = false)) ∧
  ∀ (j : Job) (k : BlockInHand), j.unit.block = some k → j.verifier.tasks = [] →
    j.decoder.waitingOutput = [] → j.decoder.waitingBytes = [] →
    let building : Prop := match j.unit.order with
      | .work => j.phase.inRun = true ∨ j.phase = .quiescing
      | .quiesce => j.phase = .quiescing
      | .stop => j.phase = .aborting
    let monitor : Monitor := if j.phase.inRun = true ∧ j.unit.monitor ≠ .stopped then
      .running (j.descriptor.progressPeriod * 100) else j.unit.monitor
    let written : JobCounters := if j.phase = .aborting then j.counters
      else { j.counters with blocksWritten := min (j.counters.blocksWritten + 1) 4294967295 }
    let filled : JobCounters := if j.phase = .aborting then j.counters
      else { j.counters with blocksFilled := min (j.counters.blocksFilled + 1) 4294967295 }
    let notices (a : Account) : List Notice := if j.phase = .aborting then []
      else overflowNotices j.descriptor.jobId a.overflowed
    let ends (j' : Job) : Job := if j.unit.order = .stop then
      { j' with unitClear := true, unit := { j'.unit with block := none, waiting := none } } else j'
    let column := k.target % j.descriptor.bandWidth
    (∀ item : BlockItem, building → j.unit.item = some ⟨.block item, k.target, k.target + 1⟩ →
      j.unit.activity = .build → (∃ e, k.work = .ownCopy e) ∨ k.work = .ownData ∨ (∃ tainted, k.work = .ownSelf tainted) →
      let report := j.tracker.writeReport k.target (decide (k.work = .ownSelf true))
      ((Work.mk j []).unitWrite false) = ⟨ends { j with
        tracker := report.tracker
        counters := written
        ring := ⟨(j.ring.head + item.ringHeld) % 4096, j.ring.bytes.drop item.ringHeld⟩
        unit := { j.unit with
          activity := .idle
          item := none
          block := none
          monitor := monitor
          carry := match k.work with
            | .ownCopy e => j.unit.carry.set column e
            | _ => j.unit.carry
          displacement := match item.directive with
            | .copyNew e => some e
            | .copyKeep => j.unit.displacement
            | .self _ | .literal _ | .fill _ => none } }, notices report⟩) ∧
    (∀ (item : BlockItem) (e : Int) (stop : Nat), building → j.unit.item = some ⟨.block item, k.target, stop⟩ →
      k.target + 1 < stop → j.unit.activity = .build → k.work = .skipped e →
      let report := j.tracker.writeReport k.target false
      let further : Job := { j with
        tracker := report.tracker
        counters := written
        unit := { j.unit with
          item := some ⟨.block item, k.target + 1, stop⟩
          block := none
          monitor := monitor
          carry := j.unit.carry.set column e } }
      (j.unit.order = .work → ((Work.mk j []).unitWrite false) = ⟨match further.planBlock item (k.target + 1) with
        | .ok (work, op) => { further with unit := { further.unit with
            block := some ⟨k.target + 1, stepOf op, work⟩, waiting := some op } }
        | .error code => Job.reportFault ⟨code, some item.sectionNumber, some (k.target + 1), none, 0⟩
            { further with unit := { further.unit with activity := .halted, waiting := none } }, notices report⟩) ∧
      (j.unit.order ≠ .work → ((Work.mk j []).unitWrite false)
        = ⟨ends { further with unit := { further.unit with activity := .halted } }, notices report⟩)) ∧
    (∀ (item : Item) (stop : Nat), building → j.unit.item = some ⟨item, k.target, stop⟩ → j.unit.activity = .hole →
      k.work = .holeFill → (∃ start, item = .sectionBegin start) ∨ (∃ digest, item = .imageEnd digest) →
      let report := j.tracker.fillReport k.target false
      let op := j.holeOpOf (k.target + 1)
      (k.target + 1 < stop → j.unit.order = .work → ((Work.mk j []).unitWrite false) = ⟨{ j with
        tracker := report.tracker
        counters := filled
        unit := { j.unit with
          item := some ⟨item, k.target + 1, stop⟩
          block := some ⟨k.target + 1, stepOf op, .holeFill⟩
          waiting := some op
          monitor := monitor } }, notices report⟩) ∧
      (k.target + 1 < stop → j.unit.order ≠ .work → ((Work.mk j []).unitWrite false) = ⟨ends { j with
        tracker := report.tracker
        counters := filled
        unit := { j.unit with
          activity := .halted
          item := some ⟨item, k.target + 1, stop⟩
          block := none
          monitor := monitor } }, notices report⟩) ∧
      (stop ≤ k.target + 1 → ((Work.mk j []).unitWrite false) = ⟨ends { j with
        tracker := report.tracker
        counters := filled
        endRecord := match item with
          | .imageEnd digest => if j.unit.order = .stop then j.endRecord else ⟨true, some digest⟩
          | _ => j.endRecord
        ring := ⟨j.ring.head % 4096, j.ring.bytes⟩
        unit := { j.unit with activity := .idle, item := none, block := none, monitor := monitor } }, notices report⟩)) ∧
    (∀ final, j.phase = .aborting → j.unit.order = .stop → j.unit.fill = none → j.unit.activity = .fill →
      k.work = .hostFill final →
      ((Work.mk j []).unitWrite false) = ⟨{ j with
        tracker := (j.tracker.fillReport k.target final).tracker
        unitClear := true
        unit := { j.unit with activity := .idle, block := none, waiting := none } }, []⟩) ∧
    ∀ (f : FillOperation) (final : Bool), j.phase = .servicing → j.unit.order = .work → j.unit.fill = some f →
      j.unit.activity = .fill → k.work = .hostFill final →
      let report := j.tracker.fillReport k.target final
      (∀ b, k.target < b → b < f.first + f.count → (report.tracker.state b).listable = true →
        (∀ c, k.target < c → c < b → (report.tracker.state c).listable = false) →
        let op := if f.mode = .carry then j.guessOf b f.value
          else .write (storeIndex j.descriptor.targetFirst b) (List.replicate 512 f.value)
        ((Work.mk j []).unitWrite false) = ⟨{ j with
          tracker := report.tracker
          counters := filled
          unit := { j.unit with
            fill := some { f with next := b, filled := f.filled + 1 }
            block := some ⟨b, stepOf op, .hostFill f.final⟩
            waiting := some op } }, notices report⟩) ∧
      ((∀ b, k.target < b → b < f.first + f.count → (report.tracker.state b).listable = false) →
        ((Work.mk j []).unitWrite false) = ⟨{ j with
          phase := .ready
          tracker := report.tracker
          counters := filled
          unit := { j.unit with activity := .idle, block := none, fill := none } },
          notices report ++ [.fillDone j.descriptor.jobId (f.filled + 1)]⟩)

/-- RU takes the quiescing notice: from then a finished block is followed by no other, and RU halts with the rest of the item undone
(R117). RU takes its ABORT stop: its waiting request is withdrawn, a fill ends, VERIFY_WAIT ends without its hand-off, the monitor
stops, and RU reports at once when it holds no outstanding transaction (R118). VE takes its: tasks, progress and close are gone, a
waiting read is withdrawn, an outstanding one becomes discarded, and VE reports at once when it holds none (R137). -/
def Obligations.UnitsTakeOrders : Prop :=
  (∀ (s : State) (j : Job), s.job = some j →
    (j.signals.quiescing = true → j.phase = .quiescing → j.unit.order = .work →
      exec .ruQuiescingNotice s = .next (s.closeEvent ⟨{ j with
        signals := { j.signals with quiescing := false }
        unit := { j.unit with order := .quiesce } }, []⟩)) ∧
    (j.signals.unitStop = true → ∃ j' : Job,
      exec .ruAbortStop s = .next (s.closeEvent ⟨j', []⟩) ∧
      j' = { j with signals := { j.signals with unitStop := false }, unit := j'.unit, unitClear := j'.unitClear } ∧
      j'.unit.order = .stop ∧ j'.unit.waiting = none ∧ j'.unit.fill = none ∧ j'.unit.monitor = .stopped ∧
      j'.unit.displacement = j.unit.displacement ∧ j'.unit.carry = j.unit.carry ∧
      (j.unit.activity = .verifyWait → j'.unit.item = none) ∧
      (s.store.outstanding .ru = false → j'.unitClear = true ∧ j'.unit.block = none) ∧
      (s.store.outstanding .ru = true → j'.unitClear = j.unitClear ∧ j'.unit.block = j.unit.block)) ∧
    (j.signals.verifierStop = true →
      exec .veAbortStop s = .next (s.closeEvent ⟨{ j with
        signals := { j.signals with verifierStop := false }
        verifier := ⟨[], none, none, none, s.store.outstanding .ve⟩
        verifierClear := !s.store.outstanding .ve }, []⟩))) ∧
  ∀ (j : Job) (c : CurrentItem), j.unit.order = .quiesce →
    j.nextBlock c = { j with unit := { j.unit with
      item := some { c with next := c.next + 1 }, block := none, activity := .halted } }

/-- The progress monitor expires: it becomes EXPIRED, stalls grows by one, and STALL carries the first cause that holds, F, B, the
held parcel count and the queue count (R120). -/
def Obligations.MonitorExpiryPostsStall : Prop :=
  ∀ (s : State) (j : Job) (ms : Nat), s.job = some j → j.unit.monitor = .running ms → j.phase.inRun = true →
    exec .progressMonitorExpiry s = .next (s.closeEvent ⟨{ j with
        unit := { j.unit with monitor := .expired }
        counters := { j.counters with stalls := min (j.counters.stalls + 1) 4294967295 } },
      [.stall j.descriptor.jobId
        (if j.unit.activity = .verifyWait then .verifyWait
          else if j.queue = [] ∧ j.starved = true ∧ j.window.held? j.window.base = none ∧ 0 < j.window.heldCount then .gapWait
          else if j.queue = [] ∧ j.window.heldCount = 0 then .starved
          else if j.decoder.position = .seeking ∨ j.decoder.position = .endBody then .hunting
          else .other)
        j.tracker.frontier j.window.base j.window.heldCount j.queue.length]⟩)

/-- FILL in READY whose fields pass: SERVICING and STARTED, with RU at the lowest block of the range that is EMPTY, CARRIED or
SUSPECT and its first transaction as the mode gives, or, when the range holds none, READY again with FILL_DONE 0 in the same event. A
field that fails is named and changes nothing (R15, R113 to R115, R184). -/
def Obligations.FillStarts : Prop :=
  (∀ (frontier : Nat) (body : Bytes),
    let first := field body 0 2
    let count := field body 2 2
    let mode := field body 4 1
    let final := field body 6 1
    (¬(1 ≤ count ∧ first + count ≤ frontier) → readFill frontier body = .error 2) ∧
    (1 ≤ count → first + count ≤ frontier →
      (1 < mode → readFill frontier body = .error 3) ∧
      (mode ≤ 1 → 1 < final → readFill frontier body = .error 5) ∧
      (mode ≤ 1 → final ≤ 1 → readFill frontier body = .ok ⟨first, count, if mode = 0 then .carry else .byte,
        BitVec.ofNat 8 (field body 5 1), decide (final = 1), first, 0⟩))) ∧
  ∀ (tag : Byte) (body : Bytes) (s : State) (j : Job), s.Accepts tag 0x32 body → s.job = some j → j.phase = .ready →
    (∀ number, readFill j.tracker.frontier body = .error number →
      exec (.fill tag body) s = .next (s.answered tag 0x32 .badParam (.badField number))) ∧
    (∀ f, readFill j.tracker.frontier body = .ok f →
      f.filled = 0 ∧ f.next = f.first ∧ 1 ≤ f.count ∧ f.first + f.count ≤ j.tracker.frontier ∧
      ∃ w : Work, exec (.fill tag body) s =
        .next (((((s.entered tag 0x32).reply tag .started .empty).settleWork w).arbitrate).transmit) ∧
      ((∀ b, f.first ≤ b → b < f.first + f.count → (j.tracker.state b).listable = false) →
        w = ⟨{ j with phase := .ready, unit := { j.unit with activity := .idle, block := none, fill := none } },
          [.fillDone j.descriptor.jobId 0]⟩) ∧
      (∀ b, f.first ≤ b → b < f.first + f.count → (j.tracker.state b).listable = true →
        (∀ k, f.first ≤ k → k < b → (j.tracker.state k).listable = false) →
        w.notices = [] ∧ w.job = { j with phase := .servicing, unit := w.job.unit } ∧
        let op := if f.mode = .carry then j.guessOf b f.value
          else .write (storeIndex j.descriptor.targetFirst b) (List.replicate 512 f.value)
        w.job.unit = { j.unit with
          activity := .fill
          fill := some { f with next := b }
          block := some ⟨b, stepOf op, .hostFill f.final⟩
          waiting := some op }))

/-! ### VE -/

/-- A read of the task in progress that is not its last folds its bytes into the register and asks for the next block; the last one
ends the task by its digest, and a failed check ends it at once (R126 to R128). A discarded read has no effect but that the next
task may begin (R129), and after VE's ABORT stop the report to JC (R137). That a read of a task in ABORTING, before VE's stop, is taken
so too, R137 against R149, is log entry 10. -/
def Obligations.VeReadCompletes : Prop :=
  ∀ (s : State) (j : Job) (i : BlockIndex), s.job = some j → s.store.inFlight = some ⟨.ve, .read i⟩ →
    let free : State := { s with store := { s.store with inFlight := none } }
    let begun : Job := Job.beginTask false { j with verifier := { j.verifier with discarded := false } }
    (j.verifier.discarded = true → (j.phase ≠ .aborting ∨ j.signals.verifierStop = true) →
      exec .veReadComplete s = .next (free.closeGranting ⟨begun, []⟩)) ∧
    (j.verifier.discarded = true → j.phase = .aborting → j.signals.verifierStop = false →
      exec .veReadComplete s = .next (free.closeGranting ⟨{ begun with verifierClear := true }, []⟩)) ∧
    (∀ t rest p, j.verifier.discarded = false → j.verifier.close = none → j.verifier.tasks = t :: rest →
      j.verifier.progress = some p →
      (∀ data, s.store.readBlock i = some data → p.next + 1 ≠ t.start + t.count →
        exec .veReadComplete s = .next (free.closeGranting ⟨{ j with verifier := { j.verifier with
          progress := some ⟨p.next + 1, crc32Fold p.register data⟩
          waiting := some (storeIndex j.descriptor.targetFirst (p.next + 1)) } }, []⟩)) ∧
      (∀ data, s.store.readBlock i = some data → p.next + 1 = t.start + t.count →
        exec .veReadComplete s = .next (free.closeGranting ((Work.mk j []).taskEnds t
          (if crc32Fold p.register data ^^^ 0xFFFFFFFF#32 = t.digest then .isMatch else .mismatch)))) ∧
      (s.store.readBlock i = none →
        exec .veReadComplete s = .next (free.closeGranting ((Work.mk j []).taskEnds t (.check p.next)))))

/-- A task that ends outside ABORTING: CT takes its section result; a mismatch is counted and posted with cause DIGEST, a check
failure is posted with its block and not counted, a match posts nothing; a REPAIR_OVERFLOW stands first (R127, R128, R130). The task
leaves the queue; a RU in VERIFY_WAIT hands its own task into the place freed and is IDLE; and the oldest task held begins, with its first
block asked for (R125 to R127). A write cancels every task that covers its block, with no result: when the task in progress is one of
them, its waiting read is withdrawn or its outstanding read becomes discarded; then hand-off and next task follow as before (R129). -/
def Obligations.TaskResultReported : Prop :=
  (∀ (j : Job) (t : DigestTask) (outcome : TaskOutcome), j.phase ≠ .aborting →
    let a := j.tracker.sectionResult t.start t.count outcome
    (Work.mk j []).taskEnds t outcome =
      ⟨Job.beginTask false (Job.handOff { j with
        tracker := a.tracker
        counters := if outcome = .mismatch then
          { j.counters with digestMismatches := min (j.counters.digestMismatches + 1) 4294967295 } else j.counters
        verifier := { j.verifier with tasks := j.verifier.tasks.drop 1, progress := none } }),
      overflowNotices j.descriptor.jobId a.overflowed ++
      (match outcome with
        | .isMatch => []
        | .mismatch => [.mismatch j.descriptor.jobId t.number t.start t.count none]
        | .check b => [.mismatch j.descriptor.jobId t.number t.start t.count (some b)])⟩) ∧
  (∀ j : Job,
    (j.unit.activity ≠ .verifyWait ∨ j.unit.item = none ∨ 4 ≤ j.verifier.tasks.length → j.handOff = j) ∧
    (∀ number start count digest next stop, j.unit.activity = .verifyWait →
      j.unit.item = some ⟨.sectionEnd number start count (some digest), next, stop⟩ → j.verifier.tasks.length < 4 →
      j.handOff = { j with
        verifier := { j.verifier with tasks := j.verifier.tasks ++ [⟨number, start, count, digest⟩] }
        unit := { j.unit with activity := .idle, item := none } })) ∧
  (∀ (j : Job) (outstanding : Bool),
    (j.verifier.tasks = [] ∨ j.verifier.progress ≠ none ∨ j.verifier.waiting ≠ none ∨ outstanding = true →
      Job.beginTask outstanding j = j) ∧
    (∀ t rest, j.verifier.tasks = t :: rest → j.verifier.progress = none → j.verifier.waiting = none → outstanding = false →
      Job.beginTask outstanding j = { j with verifier := { j.verifier with
        progress := some ⟨t.start, 0xFFFFFFFF#32⟩
        waiting := some (storeIndex j.descriptor.targetFirst t.start) } })) ∧
  ∀ (j : Job) (b : Nat) (outstanding : Bool),
    let kept := j.verifier.tasks.filter (fun t => !(decide (t.start ≤ b) && decide (b < t.start + t.count)))
    (∀ t rest, j.verifier.tasks = t :: rest → j.verifier.progress ≠ none → t.start ≤ b → b < t.start + t.count →
      j.cancelTasks b outstanding = Job.beginTask outstanding (Job.handOff { j with verifier := { j.verifier with
        tasks := kept, progress := none, waiting := none, discarded := j.verifier.discarded || outstanding } })) ∧
    ((j.verifier.progress = none ∨ ∀ t rest, j.verifier.tasks = t :: rest → ¬(t.start ≤ b ∧ b < t.start + t.count)) →
      j.cancelTasks b outstanding = Job.beginTask outstanding (Job.handOff { j with verifier := { j.verifier with
        tasks := kept } }))

/-- CLOSE_IMAGE in READY with the five conditions met: CLOSING, STARTED, and VE asks for target block 0 with the register at
FFFFFFFFh. The first condition unmet is named, with F or the lowest block and its state where the rule gives them (R132, R133). -/
def Obligations.CloseImageTested : Prop :=
  ∀ (tag : Byte) (body : Bytes) (s : State) (j : Job), s.Accepts tag 0x38 body → s.job = some j → j.phase = .ready →
    (j.endRecord.seen = false →
      exec (.closeImage tag body) s = .next (s.answered tag 0x38 .incomplete (.unmet 1 0 .empty))) ∧
    ∀ digest, j.endRecord = ⟨true, some digest⟩ →
      (j.tracker.frontier < j.descriptor.targetLength →
        exec (.closeImage tag body) s = .next (s.answered tag 0x38 .incomplete (.unmet 2 j.tracker.frontier .empty))) ∧
      (j.descriptor.targetLength ≤ j.tracker.frontier →
        (∀ b, b < j.tracker.map.length → (j.tracker.state b).listable = true →
          (∀ k, k < b → (j.tracker.state k).listable = false) →
          exec (.closeImage tag body) s = .next (s.answered tag 0x38 .incomplete (.unmet 3 b (j.tracker.state b)))) ∧
        ((∀ b, b < j.tracker.map.length → (j.tracker.state b).listable = false) →
          ((j.tracker.repairs ≠ [] ∨ j.tracker.overflow = true) →
            exec (.closeImage tag body) s = .next (s.answered tag 0x38 .incomplete (.unmet 4 0 .empty))) ∧
          (j.tracker.repairs = [] → j.tracker.overflow = false →
            (j.verifier.isIdle (s.store.outstanding .ve) = false →
              exec (.closeImage tag body) s = .next (s.answered tag 0x38 .incomplete (.unmet 5 0 .empty))) ∧
            (j.verifier.isIdle (s.store.outstanding .ve) = true →
              exec (.closeImage tag body) s = .next
                ((({ (s.entered tag 0x38).reply tag .started .empty with job := some { j with
                  phase := .closing
                  verifier := { j.verifier with
                    close := some ⟨0, 0xFFFFFFFF#32, digest⟩
                    waiting := some (storeIndex j.descriptor.targetFirst 0) } } } : State).arbitrate).transmit)))))

/-- A read of the whole-image check folds its bytes and asks for the next block (R133). It ends at block L_T − 1: a match makes every block VERIFIED and the job CLOSED, a mismatch
returns it to READY with CLOSE_FAILED; a failed check of any read makes its block SUSPECT and returns it to READY (R29, R134, R135). -/
def Obligations.CloseEnds : Prop :=
  ∀ (s : State) (j : Job) (i : BlockIndex) (c : CloseOperation), s.job = some j →
    s.store.inFlight = some ⟨.ve, .read i⟩ → j.phase = .closing → j.verifier.discarded = false → j.verifier.close = some c →
    ∃ w : Work,
      exec .veReadComplete s = .next ({ s with store := { s.store with inFlight := none } }.closeGranting w) ∧
      (∀ data, s.store.readBlock i = some data → c.next + 1 ≠ j.descriptor.targetLength →
        w = ⟨{ j with verifier := { j.verifier with
            close := some ⟨c.next + 1, crc32Fold c.register data, c.expected⟩
            waiting := some (storeIndex j.descriptor.targetFirst (c.next + 1)) } }, []⟩) ∧
      (∀ data, s.store.readBlock i = some data → c.next + 1 = j.descriptor.targetLength →
        crc32Fold c.register data ^^^ 0xFFFFFFFF#32 = c.expected → j.tracker.repairs = [] →
        w = ⟨{ j with
            phase := .closed
            tracker := { j.tracker with map := j.tracker.map.map (fun _ => .verified) }
            verifier := { j.verifier with close := none } },
          [.closed j.descriptor.jobId j.descriptor.targetLength c.expected]⟩) ∧
      (∀ data, s.store.readBlock i = some data → c.next + 1 = j.descriptor.targetLength →
        crc32Fold c.register data ^^^ 0xFFFFFFFF#32 ≠ c.expected →
        w = ⟨{ j with phase := .ready, verifier := { j.verifier with close := none } },
          [.closeMismatch j.descriptor.jobId (crc32Fold c.register data ^^^ 0xFFFFFFFF#32) c.expected]⟩) ∧
      (s.store.readBlock i = none → j.tracker.repairs = [] →
        w = ⟨{ j with
            phase := .ready
            tracker := { j.tracker with map := j.tracker.map.set c.next .suspect, repairs := [⟨c.next, 1⟩] }
            verifier := { j.verifier with close := none } },
          [.closeCheck j.descriptor.jobId c.next]⟩)

/-! ### JC at the end of an event -/

/-- What ends an event at the job. A drained STOPPING job returns to READY and STOPPED is posted; a QUIESCING job with SD and RU
quiet enters FAULTED and FAULT is posted; otherwise neither happens (R14, R144, R145). Besides, only the two timers change. With the job
state that the event leaves, the gap hold timer runs exactly in a run with no parcel held for B and some parcel held: on, if it was
running, else from the full gap hold value (R70). The monitor is STOPPED outside a run, and else as the event's own rules left it (R119).
The notices are posted in order, and when JC holds the reports of both RU and VE in ABORTING the job is gone in the same event and ABORTED
carries its id; until then it stays (R150). Then the arbiter and the transmitter choose. The order of notices that no rule names a pair
of is log entry 19, and that the job is gone before the arbiter chooses is log entry 30. -/
def Obligations.EventEndTests : Prop :=
  (∀ (w : Work) (outstanding : Bool),
    (w.job.phase = .stopping → w.job.decoder.running = false → w.job.queue = [] → w.job.unit.activity = .idle →
      ∀ r, w.job.stopReason = some r →
      (w.settle outstanding).job.phase = .ready ∧
      (w.settle outstanding).notices = w.notices ++
        [.stopped w.job.descriptor.jobId r w.job.decoder.blocksCovered w.job.decoder.sectionsCompleted]) ∧
    (w.job.phase = .quiescing → w.job.decoder.running = false → w.job.decoderQuiet = true →
      (w.job.unit.activity = .idle ∨ w.job.unit.activity = .halted) → w.job.unit.waiting = none → outstanding = false →
      ∀ r, w.job.faultRecord = some r →
      (w.settle outstanding).job.phase = .faulted ∧
      (w.settle outstanding).notices = w.notices ++ [.fault w.job.descriptor.jobId r]) ∧
    (¬(w.job.phase = .stopping ∧ w.job.decoder.running = false ∧ w.job.queue = [] ∧ w.job.unit.activity = .idle) →
      ¬(w.job.phase = .quiescing ∧ w.job.decoder.running = false ∧ w.job.decoderQuiet = true
        ∧ (w.job.unit.activity = .idle ∨ w.job.unit.activity = .halted) ∧ w.job.unit.waiting = none ∧ outstanding = false) →
      (w.settle outstanding).job.phase = w.job.phase ∧ (w.settle outstanding).notices = w.notices) ∧
    (w.settle outstanding).job = { w.job with
      phase := (w.settle outstanding).job.phase
      window := { w.job.window with gapTimer :=
        if (w.settle outstanding).job.phase.inRun = true ∧ w.job.window.held? w.job.window.base = none
            ∧ 0 < w.job.window.heldCount then
          match w.job.window.gapTimer with
          | .running ms => .running ms
          | .idle => .running w.job.descriptor.gapHold
        else .idle }
      unit := { w.job.unit with monitor :=
        if (w.settle outstanding).job.phase.inRun = true then w.job.unit.monitor else .stopped } }) ∧
  (∀ (s : State) (j : Job), s.job = some j →
    (j.phase = .aborting → j.unitClear = true → j.verifierClear = true →
      s.teardown = { s with job := none, link := s.link.post (.aborted j.descriptor.jobId) }) ∧
    (j.phase ≠ .aborting ∨ j.unitClear = false ∨ j.verifierClear = false → s.teardown = s)) ∧
  ∀ (s : State) (w : Work),
    let done := w.settle (s.store.outstanding .ru)
    let settled := { s with job := some done.job, link := done.notices.foldl (fun l n => l.post n) s.link }.teardown
    s.settleWork w = settled ∧ s.closeEvent w = settled.transmit ∧ s.closeGranting w = settled.arbitrate.transmit

/-! ### BS -/

/-- READ_BLOCK and WRITE_BLOCK: an index above 4095 is BAD_PARAM; otherwise the transfer joins LP's queue and the arbiter may grant
it (R158 to R160). A write to a block of an existing job, granted at once at a free store, is LOCKED and not written. -/
def Obligations.HostTransfersJoin : Prop :=
  ∀ (tag : Byte) (body : Bytes) (s : State),
    (s.Accepts tag 0x40 body →
      (4096 ≤ field body 0 2 → exec (.readBlock tag body) s = .next (s.answered tag 0x40 .badParam (.badField 1))) ∧
      ∀ h : field body 0 2 < 4096, exec (.readBlock tag body) s = .next
        ((({ s.entered tag 0x40 with link := { s.link.enter tag 0x40 with
          transfers := s.link.transfers ++ [⟨tag, .read ⟨field body 0 2, h⟩⟩] } } : State).arbitrate).transmit)) ∧
    (s.Accepts tag 0x41 body →
      (4096 ≤ field body 0 2 → exec (.writeBlock tag body) s = .next (s.answered tag 0x41 .badParam (.badField 1))) ∧
      ∀ h : field body 0 2 < 4096, exec (.writeBlock tag body) s = .next
        ((({ s.entered tag 0x41 with link := { s.link.enter tag 0x41 with
          transfers := s.link.transfers ++ [⟨tag, .write ⟨field body 0 2, h⟩ (body.drop 2)⟩] } } : State).arbitrate).transmit) ∧
        ∀ j, s.job = some j → j.descriptor.locks (field body 0 2) = true → s.store.inFlight = none →
          s.link.transfers = [] → j.unit.waiting = none → j.verifier.waiting = none →
          exec (.writeBlock tag body) s = .next
            { s.answered tag 0x41 .locked (.blockIndex (field body 0 2)) with
              store := { s.store with lastGranted := .lp } })

/-- A host transfer completes: a sound block's bytes are answered OK, a damaged one CHECK_FAILED; a write puts its bytes in the store
and is answered OK. The transfer leaves LP's queue and the arbiter chooses the next (R158 to R160). -/
def Obligations.HostTransferCompletes : Prop :=
  ∀ (s : State) (t : HostTransfer) (rest : List HostTransfer), s.link.transfers = t :: rest →
    (∀ i, s.store.inFlight = some ⟨.lp, .read i⟩ →
      exec .hostTransferComplete s = .next (((({ s with
        store := { s.store with inFlight := none }
        link := { s.link with transfers := rest } } : State).reply t.tag
          (if s.store.sound i.val then .ok else .checkFailed)
          (if s.store.sound i.val then .blockRead i.val (s.store.content i.val) else .blockIndex i.val)).arbitrate).transmit)) ∧
    (∀ i content, s.store.inFlight = some ⟨.lp, .write i content⟩ →
      exec .hostTransferComplete s = .next (((({ s with
        store := { s.store.writeBlock i content with inFlight := none }
        link := { s.link with transfers := rest } } : State).reply t.tag .ok (.blockIndex i.val)).arbitrate).transmit))

/-- A block written holds its 512 bytes and is sound; every other block holds what it held and is as sound as it was (R154, R155).
BLOCK_DAMAGED leaves the content it names in the block, which is no longer sound; every other block is as before (R154; that the
command names the content is the model's, log entry 8). -/
def Obligations.StoredBlocksReadBack : Prop :=
  (∀ (st : Store) (i : BlockIndex) (content : Bytes), Memory.wf st.memory → st.clear = none →
    content.length = Config.blockBytes →
    (st.writeBlock i content).content i.val = content ∧ (st.writeBlock i content).sound i.val = true ∧
    ∀ k, k ≠ i.val →
      (st.writeBlock i content).content k = st.content k ∧ (st.writeBlock i content).sound k = st.sound k) ∧
  ∀ (s : State) (i : BlockIndex) (content : Bytes), Memory.wf s.store.memory → s.store.clear = none →
    content.length = Config.blockBytes →
    ∃ st : Store, exec (.blockDamaged i.val content) s = .next { s with store := st } ∧
      st.content i.val = content ∧ st.sound i.val = false ∧
      st.clear = s.store.clear ∧ st.inFlight = s.store.inFlight ∧ st.lastGranted = s.store.lastGranted ∧
      ∀ k, k ≠ i.val → st.content k = s.store.content k ∧ st.sound k = s.store.sound k

/-- At a free store the arbiter grants the first waiting requester in the rotation RU, VE, LP after the last one granted: the
transaction is in flight, the request of RU or VE waits no longer, a host transfer stays at the head of LP's queue, and nothing else
changes (R155, R156, R158). A host write to a locked block is not granted when its turn comes: the transfer leaves LP's queue, its reply
is LOCKED, nothing is written, LP is the last requester granted, and the arbiter goes on with the next waiting request at the store still
free (R160; R161 for the job as it stands then). While a transaction is in flight or the start-up clear runs the arbiter grants nothing
(R155, R163). -/
def Obligations.ArbiterRotates : Prop :=
  (∀ s : State, (s.store.inFlight.isSome || s.store.clear.isSome) = true → s.arbitrate = s) ∧
  (∀ s : State, s.store.inFlight = none → s.store.clear = none →
    (∀ who, s.waitingOp who = none) → s.arbitrate = s) ∧
  ∀ s : State, s.store.inFlight = none → s.store.clear = none →
    let first (who : Requester) : Prop := match s.store.lastGranted, who with
      | .ru, .ve => True
      | .ru, .lp => s.waitingOp .ve = none
      | .ru, .ru => s.waitingOp .ve = none ∧ s.waitingOp .lp = none
      | .ve, .lp => True
      | .ve, .ru => s.waitingOp .lp = none
      | .ve, .ve => s.waitingOp .lp = none ∧ s.waitingOp .ru = none
      | .lp, .ru => True
      | .lp, .ve => s.waitingOp .ru = none
      | .lp, .lp => s.waitingOp .ru = none ∧ s.waitingOp .ve = none
    (∀ who op, first who → s.waitingOp who = some op →
      (who = .lp → op.isWrite = true → s.locked op.index.val = false) →
      s.arbitrate = { s with
        store := { s.store with inFlight := some ⟨who, op⟩, lastGranted := who }
        job := match who with
          | .ru => s.job.map (fun j => { j with unit := { j.unit with waiting := none } })
          | .ve => s.job.map (fun j => { j with verifier := { j.verifier with waiting := none } })
          | .lp => s.job }) ∧
    ∀ (tag : Byte) (i : BlockIndex) (content : Bytes) (rest : List HostTransfer), first .lp →
      s.link.transfers = ⟨tag, .write i content⟩ :: rest → s.locked i.val = true →
      s.arbitrate = (({ s with
        store := { s.store with lastGranted := .lp }
        link := { s.link with transfers := rest } } : State).reply tag .locked (.blockIndex i.val)).arbitrate

/-- A write of the start-up clear completes: its block holds 512 bytes of 00h and counts among the cleared; the clear goes on with
the next block, and after block 4095 it ends with LP last granted and READY posted with cause POWER_ON (R163, R179). -/
def Obligations.ClearWriteCompletes : Prop :=
  ∀ (s : State) (c : Clear), s.store.clear = some c →
    let zeroed := s.store.writeBlock (storeIndex 0 c.next) (List.replicate 512 0)
    let further : Clear := ⟨c.next + 1, max c.cleared (c.next + 1), c.consistent && decide (c.next < c.cleared), c.epoch⟩
    (c.next < 4095 → exec .clearWriteComplete s = .next { s with store := { zeroed with clear := some further } }) ∧
    (c.next = 4095 → exec .clearWriteComplete s = .next (({ s with store :=
      { zeroed with clear := none, inFlight := none, lastGranted := .lp } } : State).post (.ready .powerOn)).transmit)

/-! ### LP -/

/-- POWER_ON and PIN_RESET: no job, the link empty with the rate sampled from the straps; POWER_ON starts the clear at block 0, a
PIN_RESET during the clear starts it again, and one after it frees the store with LP last granted and posts READY with cause PIN,
each block keeping its content but for a write in flight, which leaves the old or the new (R21, R163, R164, R166, R179, R180). -/
def Obligations.ResetsEmptyTheLink : Prop :=
  ∀ (rate1 rate0 : Bool) (s : State),
    let rate := match rate1, rate0 with
      | false, false => LineRate.mbit1
      | false, true => LineRate.mbit3
      | true, false => LineRate.mbit6
      | true, true => LineRate.mbit12
    let empty : Link := ⟨rate, .hunting, ⟨0, 0, 0, 0, 0, 0⟩, [], [], [], none, 0, [], 0, 0⟩
    (∃ t c, exec (.powerOn rate1 rate0) s = .next t ∧ t.link = empty ∧ t.job = none ∧ t.store.clear = some c ∧ c.next = 0
      ∧ c.cleared = 0 ∧ t.store.inFlight = none ∧ t.store.lastGranted = .lp) ∧
    (∀ c, s.store.clear = some c → ∃ t c', exec (.pinReset rate1 rate0) s = .next t ∧ t.link = empty ∧ t.job = none
      ∧ t.store.clear = some c' ∧ c'.next = 0 ∧ c'.epoch = c.epoch) ∧
    (s.store.clear = none → ∃ t, exec (.pinReset rate1 rate0) s = .next t ∧ t.job = none ∧
      t.link = { empty with
        sending := some (.notice (.ready .pin) 0), notices := [⟨.ready .pin, 0, true⟩], nextNotice := 1 } ∧
      t.store.clear = none ∧ t.store.inFlight = none ∧ t.store.lastGranted = .lp ∧
      (t.store.memory = s.store.memory ∧ t.store.damaged = s.store.damaged ∨
        ∃ who i content, s.store.inFlight = some ⟨who, .write i content⟩ ∧
          t.store.memory = (s.store.writeBlock i content).memory ∧ t.store.damaged = (s.store.writeBlock i content).damaged))

/-- FRAME_LENGTH_ERR, FRAME_GAP_EXPIRY while a frame is assembled, and BAD_FRAME: the frame is discarded and counted for its one
reason, the CRC before the kind, and the receiver hunts; no reply, nothing else changes. The gap timer does not run while hunting
(R167 to R170). That FRAME_LENGTH_ERR and BAD_FRAME have their effect whatever the receiver holds is log entry 4, and that
FRAME_GAP_EXPIRY has none while hunting is log entry 1. -/
def Obligations.BadFramesDiscarded : Prop :=
  ∀ (s : State) (frame held : Bytes),
    exec .frameLengthErr s = .next { s with link := { s.link with
      receiver := .hunting, errors := { s.link.errors with length := min (s.link.errors.length + 1) 65535 } } } ∧
    (s.link.receiver = .assembling held → exec .frameGapExpiry s = .next { s with link := { s.link with
      receiver := .hunting, errors := { s.link.errors with gap := min (s.link.errors.gap + 1) 65535 } } }) ∧
    (s.link.receiver = .hunting → exec .frameGapExpiry s = .next s) ∧
    (frameCrcOk frame = false → exec (.badFrame frame) s = .next { s with link := { s.link with
      receiver := .hunting, errors := { s.link.errors with crc := min (s.link.errors.crc + 1) 65535 } } }) ∧
    (frameCrcOk frame = true → frameKindOk frame = false → exec (.badFrame frame) s = .next { s with link := { s.link with
      receiver := .hunting, errors := { s.link.errors with kind := min (s.link.errors.kind + 1) 65535 } } })

/-- A byte on RXD: hunting, only B5h begins a frame; assembling, the byte joins the frame; a body length above 520 discards it at its
second byte; before the last byte nothing else happens (R167). A byte that completes a frame is the event of its last CRC byte, and does
what the command of that event does (log entry 4): of a frame with a bad CRC or a kind other than 01h, BAD_FRAME; of a good request frame
whose code is none of the eighteen, UNKNOWN_REQUEST; of any other, the request command (R169, R171, R172). -/
def Obligations.ReceiverAssembles : Prop :=
  (∀ (s : State) (b : Byte),
    (s.link.receiver = .hunting → b ≠ 0xB5 → exec (.rxdByteReceived b) s = .next s) ∧
    (s.link.receiver = .hunting → b = 0xB5 →
      exec (.rxdByteReceived b) s = .next { s with link := { s.link with receiver := .assembling [] } }) ∧
    ∀ held, s.link.receiver = .assembling held →
      (held.length = 1 → 520 < frameBodyLength (held ++ [b]) →
        exec (.rxdByteReceived b) s = .next { s with link := { s.link with
          receiver := .hunting, errors := { s.link.errors with length := min (s.link.errors.length + 1) 65535 } } }) ∧
      (held.length = 0 ∨ (held.length = 1 ∧ frameBodyLength (held ++ [b]) ≤ 520)
          ∨ (2 ≤ held.length ∧ held.length + 1 < 7 + frameBodyLength (held ++ [b])) →
        exec (.rxdByteReceived b) s = .next { s with link := { s.link with receiver := .assembling (held ++ [b]) } }) ∧
      (2 ≤ held.length → held.length + 1 = 7 + frameBodyLength (held ++ [b]) →
        (frameCrcOk (held ++ [b]) = false ∨ frameKindOk (held ++ [b]) = false →
          exec (.rxdByteReceived b) s = exec (.badFrame (held ++ [b])) s) ∧
        (frameCrcOk (held ++ [b]) = true → frameKindOk (held ++ [b]) = true → frameCode (held ++ [b]) ∉ requestCodes →
          exec (.rxdByteReceived b) s
            = exec (.unknownRequest (frameTag (held ++ [b])) (frameCode (held ++ [b])) (frameBody (held ++ [b]))) s))) ∧
  ∀ (c : Instr) (tag code b : Byte) (body held : Bytes) (s : State),
    c.request? = some (tag, body) → requestCodeOf c = some code → s.link.receiver = .assembling held → 2 ≤ held.length →
    held.length + 1 = 7 + frameBodyLength (held ++ [b]) → frameCrcOk (held ++ [b]) = true → frameKindOk (held ++ [b]) = true →
    frameTag (held ++ [b]) = tag → frameCode (held ++ [b]) = code → frameBody (held ++ [b]) = body →
    exec (.rxdByteReceived b) s = exec c s

/-- A frame ends on TXD: a reply leaves the waiting set and its request the table, and the reply run grows by one up to 4; a notice
sets it to 0; then the next frame is chosen (R173, R174). The choice for an idle transmitter: a waiting notice when the reply run is
4, else the oldest reply, else the oldest unsent notice, which is marked sent; else nothing. A busy transmitter is left alone, and
the event has no effect while no frame is being sent (log entry 1). A frame on TXD is B5h, the body length, the kind, the tag, the code,
the body and the CRC-16 of all between (R169, R182): a reply has kind 02h, the request's tag and its status, and a notice kind 03h, its
sequence number and its code; it is 8 bytes longer than its body. The bodies of replies are laid out as R186 gives, and the
reply statuses, coverage states and verdicts have the codes of R183. -/
def Obligations.TransmitterChooses : Prop :=
  (∀ s : State,
    (s.link.sending = none → exec .txFrameEnd s = .next s) ∧
    (∀ r, s.link.sending = some (.reply r) →
      let left : Link := { s.link with
        sending := none
        replies := s.link.replies.drop 1
        table := s.link.table.filter (fun e => e.tag != r.tag)
        replyRun := min (s.link.replyRun + 1) 4 }
      exec .txFrameEnd s = .next { s with link := left.transmit }) ∧
    (∀ n number, s.link.sending = some (.notice n number) →
      let left : Link := { s.link with sending := none, replyRun := 0 }
      exec .txFrameEnd s = .next { s with link := left.transmit })) ∧
  (∀ l : Link,
    (∀ f, l.sending = some f → l.transmit = l) ∧
    (l.sending = none →
      (∀ r rest, l.replies = r :: rest → l.replyRun < 4 → l.transmit = { l with sending := some (.reply r) }) ∧
      (∀ r rest, l.replies = r :: rest → (∀ n ∈ l.notices, n.sent = true) → l.transmit = { l with sending := some (.reply r) }) ∧
      (l.replies = [] → (∀ n ∈ l.notices, n.sent = true) → l.transmit = l) ∧
      (∀ before n after, l.notices = before ++ n :: after → (∀ m ∈ before, m.sent = true) → n.sent = false →
        l.replies = [] ∨ l.replyRun = 4 →
        l.transmit = { l with
          sending := some (.notice n.notice n.sequence)
          notices := before ++ { n with sent := true } :: after }))) ∧
  (∀ (r : Reply) (n : Notice) (number : Byte),
    let framed (kind tag code : Byte) (body : Bytes) : Bytes :=
      let fields := le16 body.length ++ [kind, tag, code] ++ body
      [0xB5] ++ fields ++ le16 (crc16 fields).toNat
    (TxFrame.reply r).bytes = framed 0x02 r.tag r.status.code r.body.bytes ∧
    (TxFrame.reply r).bytes.length = r.body.bytes.length + 8 ∧
    (TxFrame.notice n number).bytes = framed 0x03 number n.code n.bytes ∧
    (TxFrame.notice n number).bytes.length = n.bytes.length + 8) ∧
  (∀ kind tag code body, frameCrcOk ((frameBytes kind tag code body).drop 1) = true) ∧
  (ReplyBody.empty.bytes = [] ∧ (∀ number, (ReplyBody.badField number).bytes = le8 number) ∧
    (∀ condition value state,
      (ReplyBody.unmet condition value state).bytes = le8 condition ++ le16 value ++ [Coverage.code state]) ∧
    (∀ verdict base free, (ReplyBody.parcel verdict base free).bytes = [Verdict.code verdict] ++ le16 base.toNat ++ le8 free) ∧
    (∀ first count frontier states, (ReplyBody.map first count frontier states).bytes
      = le16 first ++ le16 count ++ le16 frontier ++ states.map Coverage.code) ∧
    (∀ done left, (ReplyBody.waived done left).bytes = le16 done ++ le16 left) ∧
    (∀ index content, (ReplyBody.blockRead index content).bytes = le16 index ++ content) ∧
    (∀ index, (ReplyBody.blockIndex index).bytes = le16 index) ∧
    (∀ removed held, (ReplyBody.acked removed held).bytes = le8 removed ++ le8 held) ∧
    ∀ count, (ReplyBody.replayed count).bytes = le8 count) ∧
  [ReplyStatus.ok, .started, .notReady, .noJob, .wrongState, .busy, .badParam, .badLength, .unknownRequest, .locked, .checkFailed,
    .incomplete].map ReplyStatus.code = [0x00, 0x01, 0x10, 0x11, 0x12, 0x13, 0x14, 0x15, 0x16, 0x17, 0x18, 0x19] ∧
  [Coverage.empty, .written, .verified, .carried, .suspect, .waived].map Coverage.code = [0, 1, 2, 3, 4, 5] ∧
  [Verdict.taken, .duplicate, .late, .ahead, .stale].map Verdict.code = [0, 1, 2, 3, 4]

/-- A notice posted while fewer than 8 are held joins the tail unsent with the counter's number, and the counter grows by one; while
8 are held it is dropped and counted, up to 255 (R175, R178). ACK_NOTICES of a held number removes the notices up to it, and queues
NOTICE_OVERFLOW at the tail when notices were dropped; the reply carries the number removed and the number still held; a number not
held is BAD_PARAM (R177, R178). REPLAY_NOTICES marks every held notice unsent and answers how many (R176). The codes and bodies of the
notices, each with its job id first, are those of R183 and R187: an absent value is zero, and a run count above 65535 is sent as 65535
(R188). The STALL causes and READY causes have the codes of R183. -/
def Obligations.NoticeQueueRules : Prop :=
  (∀ (l : Link) (n : Notice),
    (l.notices.length < 8 → l.post n = { l with
      notices := l.notices ++ [⟨n, l.nextNotice, false⟩], nextNotice := l.nextNotice + 1 }) ∧
    (8 ≤ l.notices.length → l.post n = { l with dropped := min (l.dropped + 1) 255 })) ∧
  (∀ (tag : Byte) (body : Bytes) (s : State),
    (s.Accepts tag 0x50 body → (∀ n ∈ s.link.notices, n.sequence ≠ BitVec.ofNat 8 (field body 0 1)) →
      exec (.ackNotices tag body) s = .next (s.answered tag 0x50 .badParam (.badField 1))) ∧
    (s.Accepts tag 0x50 body → ∀ before n after, s.link.notices = before ++ n :: after →
      n.sequence = BitVec.ofNat 8 (field body 0 1) → (∀ m ∈ before, m.sequence ≠ n.sequence) → s.link.notices.length ≤ 8 →
      let left := if s.link.dropped = 0 then after
        else after ++ [⟨.noticeOverflow s.link.dropped, s.link.nextNotice, false⟩]
      let l : Link := { s.link.enter tag 0x50 with
        notices := left
        nextNotice := if s.link.dropped = 0 then s.link.nextNotice else s.link.nextNotice + 1
        dropped := 0 }
      exec (.ackNotices tag body) s = .next ((({ s with link := l } : State).reply tag .ok
        (.acked (before.length + 1) left.length)).transmit)) ∧
    (s.Accepts tag 0x51 body →
      let l : Link := { s.link.enter tag 0x51 with notices := s.link.notices.map (fun n => { n with sent := false }) }
      exec (.replayNotices tag body) s = .next ((({ s with link := l } : State).reply tag .ok
        (.replayed s.link.notices.length)).transmit))) ∧
  (∀ job : Word16,
    let id := le16 job.toNat
    (∀ cause, (Notice.ready cause).code = 0x80 ∧ (Notice.ready cause).bytes = [cause.code]) ∧
    (∀ reason blocks sections, (Notice.stopped job reason blocks sections).code = 0x81 ∧
      (Notice.stopped job reason blocks sections).bytes
        = id ++ [reason.code] ++ (if 65535 < blocks then [0xFF, 0xFF] else le16 blocks)
          ++ (if 65535 < sections then [0xFF, 0xFF] else le16 sections)) ∧
    (∀ f : FaultRecord, (Notice.fault job f).code = 0x82 ∧ (Notice.fault job f).bytes.length = 14 ∧
      (Notice.fault job f).bytes
        = id ++ le8 ((if f.inSection? = none then 0 else 1) + (if f.block? = none then 0 else 2)) ++ [f.code.code, f.code.origin.code]
          ++ fieldOrZero (f.inSection?.map (fun v => v.toNat)) ++ fieldOrZero f.block?
          ++ fieldOrZero (f.place?.map (fun v => v.sequence.toNat)) ++ fieldOrZero (f.place?.map (fun v => v.offset))
          ++ le8 f.secondary) ∧
    (∀ first count base, (Notice.gap job first count base).code = 0x83 ∧
      (Notice.gap job first count base).bytes = id ++ le16 first.toNat ++ le8 count ++ le16 base.toNat) ∧
    (∀ number start count failing, (Notice.mismatch job number start count failing).code = 0x84 ∧
      (Notice.mismatch job number start count failing).bytes = id ++ le16 number.toNat ++ le16 start ++ le8 count
        ++ [if failing = none then 1 else 2] ++ fieldOrZero failing) ∧
    (∀ cause frontier base held queued, (Notice.stall job cause frontier base held queued).code = 0x85 ∧
      (Notice.stall job cause frontier base held queued).bytes
        = id ++ [cause.code] ++ le16 frontier ++ le16 base.toNat ++ le8 held ++ le8 queued) ∧
    (∀ filled, (Notice.fillDone job filled).code = 0x86 ∧ (Notice.fillDone job filled).bytes = id ++ le16 filled) ∧
    (∀ ranges overflow, (Notice.scanDone job ranges overflow).code = 0x87 ∧
      (Notice.scanDone job ranges overflow).bytes = id ++ le8 ranges ++ [if overflow then 1 else 0]) ∧
    (∀ range ranges, (Notice.repairOverflow job range ranges).code = 0x88 ∧
      (Notice.repairOverflow job range ranges).bytes = id ++ le16 range.first ++ le16 range.count ++ le8 ranges) ∧
    (∀ length digest, (Notice.closed job length digest).code = 0x89 ∧
      (Notice.closed job length digest).bytes = id ++ le16 length ++ le32 digest.toNat) ∧
    (∀ computed expected, (Notice.closeMismatch job computed expected).code = 0x8A ∧
      (Notice.closeMismatch job computed expected).bytes
        = id ++ [1] ++ le32 computed.toNat ++ le32 expected.toNat ++ [0, 0]) ∧
    (∀ block, (Notice.closeCheck job block).code = 0x8A ∧
      (Notice.closeCheck job block).bytes = id ++ [2, 0, 0, 0, 0, 0, 0, 0, 0] ++ le16 block) ∧
    ((Notice.aborted job).code = 0x8B ∧ (Notice.aborted job).bytes = id) ∧
    ∀ dropped, (Notice.noticeOverflow dropped).code = 0x8C ∧ (Notice.noticeOverflow dropped).bytes = le8 dropped) ∧
  [StallCause.verifyWait, .gapWait, .starved, .hunting, .other].map StallCause.code = [1, 2, 3, 4, 5] ∧
  [ReadyCause.powerOn, .pin].map ReadyCause.code = [1, 2]

/-! ### Laws that every step keeps -/

/-- Every step keeps the canonical form of the memory, which is the model's own (log entry 20). -/
def Obligations.StepKeepsMemoryCanonical : Prop :=
  ∀ s t : State, Memory.wf s.store.memory → step s = .next t → Memory.wf t.store.memory

/-- Every step keeps the notice queue at 8 or fewer notices with consecutive numbers, rising to the counter (R175). -/
def Obligations.StepKeepsNoticesInOrder : Prop :=
  ∀ s t : State, s.link.NoticesInOrder → step s = .next t → t.link.NoticesInOrder

/-- Every step keeps this: at most 4 requests are outstanding, with different tags, and each has exactly one reply waiting or one
transfer queued (R158, R171, R173). -/
def Obligations.StepKeepsOneAnswerEach : Prop :=
  ∀ s t : State, s.link.OneAnswerEach → step s = .next t → t.link.OneAnswerEach

/-- Every step keeps the Parcel Window sound: every parcel held is numbered in [B, B+15] and lies in the slot of its number, so no
two have the same number (R62). -/
def Obligations.StepKeepsWindowSound : Prop :=
  ∀ s t : State, s.jobHas (fun j => j.window.Sound) → step s = .next t → t.jobHas (fun j => j.window.Sound)

/-- Every step keeps this: the job holds a fault record exactly while it is in QUIESCING or FAULTED (R6); the gap hold timer runs
exactly while its three conditions hold, and the progress monitor is stopped outside RUNNING and STOPPING (R70, R119). -/
def Obligations.StepKeepsRecordAndTimers : Prop :=
  (∀ s t : State, s.jobHas Job.FaultRecordFits → step s = .next t → t.jobHas Job.FaultRecordFits) ∧
  ∀ s t : State, s.jobHas Job.TimersFit → step s = .next t → t.jobHas Job.TimersFit

/-- Every step keeps CT's lists in order: at most 32 ranges, ascending, none empty, overlapping or adjacent (R30). Every step keeps the
other laws of R30 too: every listed block lies below F and is EMPTY, CARRIED or SUSPECT, and while the overflow flag is clear every such
block below F is listed. With them it keeps what they rest on: blocks from F on are EMPTY (R24), the scan list is exact below the scan
position (R39), and the stream path, RU and VE report to CT in the order of the stream. -/
def Obligations.StepKeepsListsInOrder : Prop :=
  (∀ s t : State, s.jobHas (fun j => j.tracker.ListsInOrder) → step s = .next t → t.jobHas (fun j => j.tracker.ListsInOrder)) ∧
  ∀ s t : State, s.jobHas Job.ListLaws → step s = .next t →
    t.jobHas Job.ListLaws ∧ ∀ j, t.job = some j →
      j.tracker.repairs.length ≤ 32 ∧
      (∀ r ∈ j.tracker.repairs, ∀ b, r.first ≤ b → b < r.first + r.count →
        b < j.tracker.frontier ∧
          (j.tracker.state b = .empty ∨ j.tracker.state b = .carried ∨ j.tracker.state b = .suspect)) ∧
      (j.tracker.overflow = false → ∀ b, b < j.tracker.frontier →
        (j.tracker.state b = .empty ∨ j.tracker.state b = .carried ∨ j.tracker.state b = .suspect) →
        ∃ r ∈ j.tracker.repairs, r.first ≤ b ∧ b < r.first + r.count)

/-- Every step keeps the queues and counters in their sizes (R4, R82, R83, R124, R170). -/
def Obligations.StepKeepsSizes : Prop :=
  ∀ s t : State, s.link.CountersInWidth → s.jobHas Job.InCapacity → step s = .next t →
    t.link.CountersInWidth ∧ t.jobHas Job.InCapacity

/-- Every step keeps this: RU's store writes go to the job's target region only, and while the start-up clear runs there is no job and no
transaction (R99, R105, R163). -/
def Obligations.StepKeepsUnitWritesTarget : Prop :=
  ∀ s t : State, s.UnitWritesTarget → step s = .next t → t.UnitWritesTarget

/-- While a job exists, F never falls, and no command alters the descriptor (R2, R24). -/
def Obligations.FrontierNeverFalls : Prop :=
  ∀ (c : Instr) (s t : State) (j j' : Job), exec c s = .next t → s.job = some j → t.job = some j' →
    j.tracker.frontier ≤ j'.tracker.frontier ∧ j'.descriptor = j.descriptor

/-- The laws hold right after power-on. -/
def Obligations.ResetMeetsTheLaws : Prop :=
  Memory.wf State.reset.store.memory ∧ State.reset.link.NoticesInOrder ∧ State.reset.link.OneAnswerEach ∧
    State.reset.link.CountersInWidth ∧ State.reset.jobHas (fun j => j.window.Sound) ∧
    State.reset.jobHas Job.FaultRecordFits ∧ State.reset.jobHas Job.TimersFit ∧
    State.reset.jobHas (fun j => j.tracker.ListsInOrder) ∧ State.reset.jobHas Job.ListLaws ∧ State.reset.jobHas Job.InCapacity ∧
    State.reset.UnitWritesTarget
end

