-- ==== Sys2Proof/Laws/State.lean ====
section
/-! SUPPORT. One lemma for each field of the state under each update, so that no proof unfolds a record update; and the frames of
the operations that end an event. -/

namespace Sys2Proof.Machine

@[simp] theorem State.mapLink_pending (f : Link → Link) (s : State) : (s.mapLink f).pending = s.pending := rfl

@[simp] theorem State.mapLink_freeIndex (f : Link → Link) (s : State) : (s.mapLink f).freeIndex = s.freeIndex := rfl

@[simp] theorem State.mapLink_link (f : Link → Link) (s : State) : (s.mapLink f).link = f s.link := rfl

@[simp] theorem State.mapLink_store (f : Link → Link) (s : State) : (s.mapLink f).store = s.store := rfl

@[simp] theorem State.mapLink_job (f : Link → Link) (s : State) : (s.mapLink f).job = s.job := rfl

@[simp] theorem State.mapStore_pending (f : Store → Store) (s : State) : (s.mapStore f).pending = s.pending := rfl

@[simp] theorem State.mapStore_freeIndex (f : Store → Store) (s : State) : (s.mapStore f).freeIndex = s.freeIndex := rfl

@[simp] theorem State.mapStore_link (f : Store → Store) (s : State) : (s.mapStore f).link = s.link := rfl

@[simp] theorem State.mapStore_store (f : Store → Store) (s : State) : (s.mapStore f).store = f s.store := rfl

@[simp] theorem State.mapStore_job (f : Store → Store) (s : State) : (s.mapStore f).job = s.job := rfl

@[simp] theorem State.mapJob_pending (f : Job → Job) (s : State) : (s.mapJob f).pending = s.pending := rfl

@[simp] theorem State.mapJob_freeIndex (f : Job → Job) (s : State) : (s.mapJob f).freeIndex = s.freeIndex := rfl

@[simp] theorem State.mapJob_link (f : Job → Job) (s : State) : (s.mapJob f).link = s.link := rfl

@[simp] theorem State.mapJob_store (f : Job → Job) (s : State) : (s.mapJob f).store = s.store := rfl

@[simp] theorem State.mapJob_job (f : Job → Job) (s : State) : (s.mapJob f).job = s.job.map f := rfl

@[simp] theorem State.drawn_pending (s : State) : s.drawn.pending = s.pending := rfl

@[simp] theorem State.drawn_freeIndex (s : State) : s.drawn.freeIndex = s.freeIndex + 1 := rfl

@[simp] theorem State.drawn_link (s : State) : s.drawn.link = s.link := rfl

@[simp] theorem State.drawn_store (s : State) : s.drawn.store = s.store := rfl

@[simp] theorem State.drawn_job (s : State) : s.drawn.job = s.job := rfl

@[simp] theorem State.transmit_pending (s : State) : s.transmit.pending = s.pending := rfl

@[simp] theorem State.transmit_freeIndex (s : State) : s.transmit.freeIndex = s.freeIndex := rfl

@[simp] theorem State.transmit_link (s : State) : s.transmit.link = s.link.transmit := rfl

@[simp] theorem State.transmit_store (s : State) : s.transmit.store = s.store := rfl

@[simp] theorem State.transmit_job (s : State) : s.transmit.job = s.job := rfl

@[simp] theorem State.reply_pending (tag : Byte) (st : ReplyStatus) (b : ReplyBody) (s : State) : (s.reply tag st b).pending = s.pending := rfl

@[simp] theorem State.reply_freeIndex (tag : Byte) (st : ReplyStatus) (b : ReplyBody) (s : State) : (s.reply tag st b).freeIndex = s.freeIndex := rfl

@[simp] theorem State.reply_link (tag : Byte) (st : ReplyStatus) (b : ReplyBody) (s : State) : (s.reply tag st b).link = s.link.reply tag st b := rfl

@[simp] theorem State.reply_store (tag : Byte) (st : ReplyStatus) (b : ReplyBody) (s : State) : (s.reply tag st b).store = s.store := rfl

@[simp] theorem State.reply_job (tag : Byte) (st : ReplyStatus) (b : ReplyBody) (s : State) : (s.reply tag st b).job = s.job := rfl

@[simp] theorem State.post_pending (n : Notice) (s : State) : (s.post n).pending = s.pending := rfl

@[simp] theorem State.post_freeIndex (n : Notice) (s : State) : (s.post n).freeIndex = s.freeIndex := rfl

@[simp] theorem State.post_link (n : Notice) (s : State) : (s.post n).link = s.link.post n := rfl

@[simp] theorem State.post_store (n : Notice) (s : State) : (s.post n).store = s.store := rfl

@[simp] theorem State.post_job (n : Notice) (s : State) : (s.post n).job = s.job := rfl

@[simp] theorem State.receive_pending (r : Receiver) (s : State) : (s.receive r).pending = s.pending := rfl

@[simp] theorem State.receive_freeIndex (r : Receiver) (s : State) : (s.receive r).freeIndex = s.freeIndex := rfl

@[simp] theorem State.receive_link (r : Receiver) (s : State) : (s.receive r).link = { s.link with receiver := r } := rfl

@[simp] theorem State.receive_store (r : Receiver) (s : State) : (s.receive r).store = s.store := rfl

@[simp] theorem State.receive_job (r : Receiver) (s : State) : (s.receive r).job = s.job := rfl

@[simp] theorem State.freeStore_pending (s : State) : s.freeStore.pending = s.pending := rfl

@[simp] theorem State.freeStore_freeIndex (s : State) : s.freeStore.freeIndex = s.freeIndex := rfl

@[simp] theorem State.freeStore_link (s : State) : s.freeStore.link = s.link := rfl

@[simp] theorem State.freeStore_store (s : State) : s.freeStore.store = { s.store with inFlight := none } := rfl

@[simp] theorem State.freeStore_job (s : State) : s.freeStore.job = s.job := rfl

@[simp] theorem State.finishWork_pending (w : Work) (s : State) : (s.finishWork w).pending = s.pending := rfl

@[simp] theorem State.finishWork_freeIndex (w : Work) (s : State) : (s.finishWork w).freeIndex = s.freeIndex := rfl

@[simp] theorem State.finishWork_link (w : Work) (s : State) : (s.finishWork w).link = s.link.postAll w.notices := rfl

@[simp] theorem State.finishWork_store (w : Work) (s : State) : (s.finishWork w).store = s.store := rfl

@[simp] theorem State.finishWork_job (w : Work) (s : State) : (s.finishWork w).job = some w.job := rfl

@[simp] theorem Job.mapUnit_descriptor (f : ReconUnit → ReconUnit) (j : Job) : (j.mapUnit f).descriptor = j.descriptor := rfl

@[simp] theorem Job.mapUnit_phase (f : ReconUnit → ReconUnit) (j : Job) : (j.mapUnit f).phase = j.phase := rfl

@[simp] theorem Job.mapUnit_stopReason (f : ReconUnit → ReconUnit) (j : Job) : (j.mapUnit f).stopReason = j.stopReason := rfl

@[simp] theorem Job.mapUnit_endRecord (f : ReconUnit → ReconUnit) (j : Job) : (j.mapUnit f).endRecord = j.endRecord := rfl

@[simp] theorem Job.mapUnit_faultRecord (f : ReconUnit → ReconUnit) (j : Job) : (j.mapUnit f).faultRecord = j.faultRecord := rfl

@[simp] theorem Job.mapUnit_counters (f : ReconUnit → ReconUnit) (j : Job) : (j.mapUnit f).counters = j.counters := rfl

@[simp] theorem Job.mapUnit_signals (f : ReconUnit → ReconUnit) (j : Job) : (j.mapUnit f).signals = j.signals := rfl

@[simp] theorem Job.mapUnit_decoderQuiet (f : ReconUnit → ReconUnit) (j : Job) : (j.mapUnit f).decoderQuiet = j.decoderQuiet := rfl

@[simp] theorem Job.mapUnit_unitClear (f : ReconUnit → ReconUnit) (j : Job) : (j.mapUnit f).unitClear = j.unitClear := rfl

@[simp] theorem Job.mapUnit_verifierClear (f : ReconUnit → ReconUnit) (j : Job) : (j.mapUnit f).verifierClear = j.verifierClear := rfl

@[simp] theorem Job.mapUnit_window (f : ReconUnit → ReconUnit) (j : Job) : (j.mapUnit f).window = j.window := rfl

@[simp] theorem Job.mapUnit_decoder (f : ReconUnit → ReconUnit) (j : Job) : (j.mapUnit f).decoder = j.decoder := rfl

@[simp] theorem Job.mapUnit_queue (f : ReconUnit → ReconUnit) (j : Job) : (j.mapUnit f).queue = j.queue := rfl

@[simp] theorem Job.mapUnit_ring (f : ReconUnit → ReconUnit) (j : Job) : (j.mapUnit f).ring = j.ring := rfl

@[simp] theorem Job.mapUnit_unit (f : ReconUnit → ReconUnit) (j : Job) : (j.mapUnit f).unit = f j.unit := rfl

@[simp] theorem Job.mapUnit_tracker (f : ReconUnit → ReconUnit) (j : Job) : (j.mapUnit f).tracker = j.tracker := rfl

@[simp] theorem Job.mapUnit_verifier (f : ReconUnit → ReconUnit) (j : Job) : (j.mapUnit f).verifier = j.verifier := rfl

@[simp] theorem Job.mapDecoder_descriptor (f : Decoder → Decoder) (j : Job) : (j.mapDecoder f).descriptor = j.descriptor := rfl

@[simp] theorem Job.mapDecoder_phase (f : Decoder → Decoder) (j : Job) : (j.mapDecoder f).phase = j.phase := rfl

@[simp] theorem Job.mapDecoder_stopReason (f : Decoder → Decoder) (j : Job) : (j.mapDecoder f).stopReason = j.stopReason := rfl

@[simp] theorem Job.mapDecoder_endRecord (f : Decoder → Decoder) (j : Job) : (j.mapDecoder f).endRecord = j.endRecord := rfl

@[simp] theorem Job.mapDecoder_faultRecord (f : Decoder → Decoder) (j : Job) : (j.mapDecoder f).faultRecord = j.faultRecord := rfl

@[simp] theorem Job.mapDecoder_counters (f : Decoder → Decoder) (j : Job) : (j.mapDecoder f).counters = j.counters := rfl

@[simp] theorem Job.mapDecoder_signals (f : Decoder → Decoder) (j : Job) : (j.mapDecoder f).signals = j.signals := rfl

@[simp] theorem Job.mapDecoder_decoderQuiet (f : Decoder → Decoder) (j : Job) : (j.mapDecoder f).decoderQuiet = j.decoderQuiet := rfl

@[simp] theorem Job.mapDecoder_unitClear (f : Decoder → Decoder) (j : Job) : (j.mapDecoder f).unitClear = j.unitClear := rfl

@[simp] theorem Job.mapDecoder_verifierClear (f : Decoder → Decoder) (j : Job) : (j.mapDecoder f).verifierClear = j.verifierClear := rfl

@[simp] theorem Job.mapDecoder_window (f : Decoder → Decoder) (j : Job) : (j.mapDecoder f).window = j.window := rfl

@[simp] theorem Job.mapDecoder_decoder (f : Decoder → Decoder) (j : Job) : (j.mapDecoder f).decoder = f j.decoder := rfl

@[simp] theorem Job.mapDecoder_queue (f : Decoder → Decoder) (j : Job) : (j.mapDecoder f).queue = j.queue := rfl

@[simp] theorem Job.mapDecoder_ring (f : Decoder → Decoder) (j : Job) : (j.mapDecoder f).ring = j.ring := rfl

@[simp] theorem Job.mapDecoder_unit (f : Decoder → Decoder) (j : Job) : (j.mapDecoder f).unit = j.unit := rfl

@[simp] theorem Job.mapDecoder_tracker (f : Decoder → Decoder) (j : Job) : (j.mapDecoder f).tracker = j.tracker := rfl

@[simp] theorem Job.mapDecoder_verifier (f : Decoder → Decoder) (j : Job) : (j.mapDecoder f).verifier = j.verifier := rfl

@[simp] theorem Job.mapVerifier_descriptor (f : Verifier → Verifier) (j : Job) : (j.mapVerifier f).descriptor = j.descriptor := rfl

@[simp] theorem Job.mapVerifier_phase (f : Verifier → Verifier) (j : Job) : (j.mapVerifier f).phase = j.phase := rfl

@[simp] theorem Job.mapVerifier_stopReason (f : Verifier → Verifier) (j : Job) : (j.mapVerifier f).stopReason = j.stopReason := rfl

@[simp] theorem Job.mapVerifier_endRecord (f : Verifier → Verifier) (j : Job) : (j.mapVerifier f).endRecord = j.endRecord := rfl

@[simp] theorem Job.mapVerifier_faultRecord (f : Verifier → Verifier) (j : Job) : (j.mapVerifier f).faultRecord = j.faultRecord := rfl

@[simp] theorem Job.mapVerifier_counters (f : Verifier → Verifier) (j : Job) : (j.mapVerifier f).counters = j.counters := rfl

@[simp] theorem Job.mapVerifier_signals (f : Verifier → Verifier) (j : Job) : (j.mapVerifier f).signals = j.signals := rfl

@[simp] theorem Job.mapVerifier_decoderQuiet (f : Verifier → Verifier) (j : Job) : (j.mapVerifier f).decoderQuiet = j.decoderQuiet := rfl

@[simp] theorem Job.mapVerifier_unitClear (f : Verifier → Verifier) (j : Job) : (j.mapVerifier f).unitClear = j.unitClear := rfl

@[simp] theorem Job.mapVerifier_verifierClear (f : Verifier → Verifier) (j : Job) : (j.mapVerifier f).verifierClear = j.verifierClear := rfl

@[simp] theorem Job.mapVerifier_window (f : Verifier → Verifier) (j : Job) : (j.mapVerifier f).window = j.window := rfl

@[simp] theorem Job.mapVerifier_decoder (f : Verifier → Verifier) (j : Job) : (j.mapVerifier f).decoder = j.decoder := rfl

@[simp] theorem Job.mapVerifier_queue (f : Verifier → Verifier) (j : Job) : (j.mapVerifier f).queue = j.queue := rfl

@[simp] theorem Job.mapVerifier_ring (f : Verifier → Verifier) (j : Job) : (j.mapVerifier f).ring = j.ring := rfl

@[simp] theorem Job.mapVerifier_unit (f : Verifier → Verifier) (j : Job) : (j.mapVerifier f).unit = j.unit := rfl

@[simp] theorem Job.mapVerifier_tracker (f : Verifier → Verifier) (j : Job) : (j.mapVerifier f).tracker = j.tracker := rfl

@[simp] theorem Job.mapVerifier_verifier (f : Verifier → Verifier) (j : Job) : (j.mapVerifier f).verifier = f j.verifier := rfl

@[simp] theorem Job.mapTracker_descriptor (f : Tracker → Tracker) (j : Job) : (j.mapTracker f).descriptor = j.descriptor := rfl

@[simp] theorem Job.mapTracker_phase (f : Tracker → Tracker) (j : Job) : (j.mapTracker f).phase = j.phase := rfl

@[simp] theorem Job.mapTracker_stopReason (f : Tracker → Tracker) (j : Job) : (j.mapTracker f).stopReason = j.stopReason := rfl

@[simp] theorem Job.mapTracker_endRecord (f : Tracker → Tracker) (j : Job) : (j.mapTracker f).endRecord = j.endRecord := rfl

@[simp] theorem Job.mapTracker_faultRecord (f : Tracker → Tracker) (j : Job) : (j.mapTracker f).faultRecord = j.faultRecord := rfl

@[simp] theorem Job.mapTracker_counters (f : Tracker → Tracker) (j : Job) : (j.mapTracker f).counters = j.counters := rfl

@[simp] theorem Job.mapTracker_signals (f : Tracker → Tracker) (j : Job) : (j.mapTracker f).signals = j.signals := rfl

@[simp] theorem Job.mapTracker_decoderQuiet (f : Tracker → Tracker) (j : Job) : (j.mapTracker f).decoderQuiet = j.decoderQuiet := rfl

@[simp] theorem Job.mapTracker_unitClear (f : Tracker → Tracker) (j : Job) : (j.mapTracker f).unitClear = j.unitClear := rfl

@[simp] theorem Job.mapTracker_verifierClear (f : Tracker → Tracker) (j : Job) : (j.mapTracker f).verifierClear = j.verifierClear := rfl

@[simp] theorem Job.mapTracker_window (f : Tracker → Tracker) (j : Job) : (j.mapTracker f).window = j.window := rfl

@[simp] theorem Job.mapTracker_decoder (f : Tracker → Tracker) (j : Job) : (j.mapTracker f).decoder = j.decoder := rfl

@[simp] theorem Job.mapTracker_queue (f : Tracker → Tracker) (j : Job) : (j.mapTracker f).queue = j.queue := rfl

@[simp] theorem Job.mapTracker_ring (f : Tracker → Tracker) (j : Job) : (j.mapTracker f).ring = j.ring := rfl

@[simp] theorem Job.mapTracker_unit (f : Tracker → Tracker) (j : Job) : (j.mapTracker f).unit = j.unit := rfl

@[simp] theorem Job.mapTracker_tracker (f : Tracker → Tracker) (j : Job) : (j.mapTracker f).tracker = f j.tracker := rfl

@[simp] theorem Job.mapTracker_verifier (f : Tracker → Tracker) (j : Job) : (j.mapTracker f).verifier = j.verifier := rfl

@[simp] theorem Work.map_job (f : Job → Job) (w : Work) : (w.map f).job = f w.job := rfl

@[simp] theorem Work.map_notices (f : Job → Job) (w : Work) : (w.map f).notices = w.notices := rfl

@[simp] theorem Work.post_job (n : Notice) (w : Work) : (w.post n).job = w.job := rfl

@[simp] theorem Work.post_notices (n : Notice) (w : Work) : (w.post n).notices = w.notices ++ [n] := rfl

@[simp] theorem quietly_job (f : Job → Job) (j : Job) : (quietly f j).job = f j := rfl

@[simp] theorem quietly_notices (f : Job → Job) (j : Job) : (quietly f j).notices = [] := rfl

end Sys2Proof.Machine
end

