-- ==== Sys2Proof/Laws/Coverage.lean ====
section
/-! SUPPORT. What the operations of CT leave unchanged: a list operation keeps the map, the frontier and the scan. What the taking of a
report posts, and the next block of a FILL. -/

namespace Sys2Proof.Machine

/-- An account of a list operation: only the repair list and the overflow flag may differ. -/
def Account.ListOnly (t : Tracker) (a : Account) : Prop :=
  ∃ repairs overflow, a.tracker = { t with repairs := repairs, overflow := overflow }

/-- Setting the overflow flag is a list operation. -/
theorem Tracker.setOverflow_listOnly (r : BlockRange) (t : Tracker) : (t.setOverflow r).ListOnly t := by
  unfold Tracker.setOverflow
  split
  · exact ⟨t.repairs, t.overflow, rfl⟩
  · exact ⟨t.repairs, true, rfl⟩

/-- Adding a range is a list operation. -/
theorem Tracker.addRange_listOnly (r : BlockRange) (t : Tracker) : (t.addRange r).ListOnly t := by
  unfold Tracker.addRange
  split
  · exact ⟨t.repairs, t.overflow, rfl⟩
  · split
    · exact ⟨_, t.overflow, rfl⟩
    · exact t.setOverflow_listOnly r

/-- Removing a block is a list operation. -/
theorem Tracker.removeBlock_listOnly (b : Nat) (t : Tracker) : (t.removeBlock b).ListOnly t := by
  unfold Tracker.removeBlock
  split
  · exact ⟨t.repairs, t.overflow, rfl⟩
  · split
    · obtain ⟨rs, o, h⟩ := Tracker.setOverflow_listOnly _ { t with repairs := removeKeepingLower b t.repairs }
      exact ⟨rs, o, h⟩
    · exact ⟨_, t.overflow, rfl⟩

/-- Removing blocks one at a time is a list operation. -/
theorem Tracker.removeBlocks_listOnly (bs : List Nat) (t : Tracker) : (t.removeBlocks bs).ListOnly t := by
  have key : ∀ (bs : List Nat) (a : Account), a.ListOnly t →
      (bs.foldl (fun a b =>
        let step := a.tracker.removeBlock b
        (⟨step.tracker, a.overflowed <|> step.overflowed⟩ : Account)) a).ListOnly t := by
    intro bs
    induction bs with
    | nil => exact fun a h => h
    | cons b rest ih =>
      intro a h
      obtain ⟨rs, o, h1⟩ := h
      obtain ⟨rs', o', h2⟩ := Tracker.removeBlock_listOnly b a.tracker
      refine ih _ ⟨rs', o', ?_⟩
      show (a.tracker.removeBlock b).tracker = _
      rw [h2, h1]
  exact key bs ⟨t, none⟩ ⟨t.repairs, t.overflow, rfl⟩

/-- Changing states block by block keeps the length of the map. -/
@[simp] theorem mapStates_length (f : Nat → Coverage → Coverage) (cs : List Coverage) :
    ∀ i, (mapStates f i cs).length = cs.length := by
  induction cs with
  | nil => exact fun _ => rfl
  | cons c rest ih => intro i; simp [mapStates, ih]

/-- The state of a block after a change block by block. -/
theorem mapStates_getD (f : Nat → Coverage → Coverage) (cs : List Coverage) (d : Coverage) :
    ∀ i k, k < cs.length → (mapStates f i cs).getD k d = f (i + k) (cs.getD k d) := by
  induction cs with
  | nil => intro i k h; simp at h
  | cons c rest ih =>
    intro i k h
    cases k with
    | zero => rfl
    | succ k =>
      have h := ih (i + 1) k (by simpa using h)
      simp only [mapStates, List.getD_cons_succ]
      rw [h]
      congr 1
      omega

/-- The state of a block of the map after a range is changed. -/
theorem Tracker.state_mapRange (r : BlockRange) (f : Coverage → Coverage) (t : Tracker) {b : Nat} (h : b < t.map.length) :
    (t.mapRange r f).state b = if r.holds b then f (t.state b) else t.state b := by
  have key := mapStates_getD (fun i c => if r.holds i then f c else c) t.map .empty 0 b h
  simp only [Nat.zero_add] at key
  exact key

/-- Whether a range holds a block of its list of blocks. -/
theorem BlockRange.mem_blocks {r : BlockRange} {b : Nat} : b ∈ r.blocks ↔ r.holds b = true := by
  unfold BlockRange.blocks BlockRange.holds BlockRange.stop
  simp only [List.mem_map, List.mem_range, Bool.and_eq_true, decide_eq_true_eq]
  constructor
  · rintro ⟨i, hi, rfl⟩
    omega
  · rintro ⟨h1, h2⟩
    exact ⟨b - r.first, by omega, by omega⟩

/-- What CT's taking of a report does: the account, and at most one REPAIR_OVERFLOW, with the range it names and the count 32 (R34). -/
theorem Work.account_spec (a : Account) (w : Work) :
    ∃ ns, w.account a = ⟨{ w.job with tracker := a.tracker }, w.notices ++ ns⟩ ∧
      (ns = [] ∨ ∃ r, a.overflowed = some r ∧ ns = [.repairOverflow w.job.descriptor.jobId r Config.repairRanges]) := by
  unfold Work.account
  split
  · rename_i r h
    dsimp only
    split
    · exact ⟨[], by simp [Work.map], Or.inl rfl⟩
    · exact ⟨_, rfl, Or.inr ⟨r, h, rfl⟩⟩
  · exact ⟨[], by simp [Work.map], Or.inl rfl⟩

/-- In ABORTING a report reaches CT and posts nothing (R43, R149). -/
theorem Work.account_aborting {w : Work} (h : w.job.phase = .aborting) (a : Account) :
    w.account a = ⟨{ w.job with tracker := a.tracker }, w.notices⟩ := by
  unfold Work.account
  cases ha : a.overflowed <;> simp [Work.map, h]

/-- Where no overflow is named, CT's taking of a report posts nothing. -/
theorem Work.account_silent {a : Account} (h : a.overflowed = none) (w : Work) :
    w.account a = ⟨{ w.job with tracker := a.tracker }, w.notices⟩ := by
  unfold Work.account
  simp [h, Work.map]

/-! ### The next block of a FILL (R115) -/

/-- No block from a FILL's next on is EMPTY, CARRIED or SUSPECT: there is no next one. -/
theorem FillOperation.nextBlock_none {f : FillOperation} {t : Tracker}
    (h : ∀ b, f.next ≤ b → b < f.first + f.count → (t.state b).listable = false) : f.nextBlock t = none := by
  unfold FillOperation.nextBlock
  rw [List.find?_eq_none]
  intro b hb
  rw [List.mem_range'_1] at hb
  simp [h b hb.1 (by omega)]

/-- The next block of a FILL is the first from its next on that is EMPTY, CARRIED or SUSPECT. -/
theorem FillOperation.nextBlock_first {f : FillOperation} {t : Tracker} {b : Nat} (h1 : f.next ≤ b) (h2 : b < f.first + f.count)
    (h3 : (t.state b).listable = true) (h4 : ∀ c, f.next ≤ c → c < b → (t.state c).listable = false) :
    f.nextBlock t = some b := by
  unfold FillOperation.nextBlock
  obtain ⟨m, hm⟩ : ∃ m, f.first + f.count - f.next = (b - f.next) + (m + 1) := ⟨f.first + f.count - f.next - (b - f.next) - 1, by omega⟩
  have hn : (List.range' f.next (b - f.next)).find? (fun c => (t.state c).listable) = none := by
    rw [List.find?_eq_none]
    intro c hc
    rw [List.mem_range'_1] at hc
    simp [h4 c hc.1 (by omega)]
  have hb : f.next + (b - f.next) = b := by omega
  rw [hm, ← List.range'_append_1, List.find?_append, hn]
  simp [hb, List.range'_succ, h3]

/-! ### Section results and the scan (R40) -/

/-- The test for a restart changes the scan only: it stays, or its walk starts again. -/
theorem Tracker.restartScan_spec (before : List Coverage) (t : Tracker) :
    t.restartScan before = t ∨ ∃ sc, t.scan = some sc ∧ t.restartScan before = { t with scan := some ⟨0, [], false⟩ } := by
  unfold Tracker.restartScan
  split
  · exact Or.inl rfl
  · rename_i sc h
    split
    · exact Or.inl rfl
    · exact Or.inr ⟨sc, h, rfl⟩

end Sys2Proof.Machine
end

