-- ==== Sys2Proof/Laws/Frames.lean ====
section
/-! SUPPORT. What the operations that end an event leave unchanged: the settling of the job, the teardown, the arbiter, the
admission of a request. -/

namespace Sys2Proof.Machine

/-! ### Counters and JC's tests -/

/-- A counter report changes the counters only. -/
theorem Job.count_eq (c : JobCounter) (k : Nat) (j : Job) : ∃ counters, j.count c k = { j with counters := counters } := by
  unfold Job.count
  split
  · exact ⟨j.counters, rfl⟩
  · exact ⟨_, rfl⟩

/-- The stop drain changes the job state only, and may post one notice. -/
theorem Work.testDrain_spec (w : Work) :
    ∃ phase ns, w.testDrain.job = { w.job with phase := phase } ∧ w.testDrain.notices = w.notices ++ ns := by
  unfold Work.testDrain
  split
  · split
    · exact ⟨_, _, rfl, rfl⟩
    · exact ⟨.ready, [], rfl, by simp⟩
  · exact ⟨w.job.phase, [], rfl, by simp⟩

/-- The quiesce changes the job state only, and may post one notice. -/
theorem Work.testQuiesce_spec (o : Bool) (w : Work) :
    ∃ phase ns, (w.testQuiesce o).job = { w.job with phase := phase } ∧ (w.testQuiesce o).notices = w.notices ++ ns := by
  unfold Work.testQuiesce
  split
  · split
    · exact ⟨_, _, rfl, rfl⟩
    · exact ⟨.faulted, [], rfl, by simp⟩
  · exact ⟨w.job.phase, [], rfl, by simp⟩

/-- The timers after an event: only the gap hold timer and the progress monitor may change. -/
theorem Job.settleTimers_spec (j : Job) :
    ∃ timer monitor, j.settleTimers =
      { j with window := { j.window with gapTimer := timer }, unit := { j.unit with monitor := monitor } } := by
  unfold Job.settleTimers Job.settleMonitor
  split
  · exact ⟨_, j.unit.monitor, rfl⟩
  · exact ⟨_, .stopped, rfl⟩

/-- The values of the timers after an event (R70, R119). -/
theorem Job.settleTimers_eq (j : Job) :
    j.settleTimers = { j with
      window := { j.window with gapTimer :=
        if (j.phase.inRun && j.window.gap) = true then
          match j.window.gapTimer with
          | .running ms => .running ms
          | .idle => .running j.descriptor.gapHold
        else .idle }
      unit := { j.unit with monitor := if j.phase.inRun = true then j.unit.monitor else .stopped } } := by
  unfold Job.settleTimers Job.settleMonitor Job.settleGapTimer
  cases h : j.phase.inRun <;> simp <;> rfl

/-- JC's tests at the end of an event: only the job state and the two timers may change, and notices may follow. -/
theorem Work.settle_spec (o : Bool) (w : Work) :
    ∃ phase timer monitor ns,
      (w.settle o).job =
        { w.job with
          phase := phase
          window := { w.job.window with gapTimer := timer }
          unit := { w.job.unit with monitor := monitor } } ∧
      (w.settle o).notices = w.notices ++ ns := by
  obtain ⟨p1, n1, h1, g1⟩ := w.testDrain_spec
  obtain ⟨p2, n2, h2, g2⟩ := w.testDrain.testQuiesce_spec o
  obtain ⟨t, m, h3⟩ := (w.testDrain.testQuiesce o).job.settleTimers_spec
  refine ⟨p2, t, m, n1 ++ n2, ?_, ?_⟩
  · show (w.testDrain.testQuiesce o).job.settleTimers = _
    rw [h3, h2, h1]
  · show (w.testDrain.testQuiesce o).notices = _
    rw [g2, g1, List.append_assoc]

/-! ### The teardown and the end of an event -/

/-- The teardown removes the job or changes nothing. -/
theorem State.teardown_spec (s : State) :
    s.teardown = s ∨ ∃ j, s.job = some j ∧ j.tornDown = true ∧
      s.teardown = { s with job := none, link := s.link.post (.aborted j.descriptor.jobId) } := by
  unfold State.teardown
  split
  · rename_i j h
    split
    · rename_i h'
      exact Or.inr ⟨j, h, h', rfl⟩
    · exact Or.inl rfl
  · exact Or.inl rfl

@[simp] theorem State.teardown_pending (s : State) : s.teardown.pending = s.pending := by
  rcases s.teardown_spec with h | ⟨j, _, _, h⟩ <;> rw [h]

@[simp] theorem State.teardown_freeIndex (s : State) : s.teardown.freeIndex = s.freeIndex := by
  rcases s.teardown_spec with h | ⟨j, _, _, h⟩ <;> rw [h]

@[simp] theorem State.teardown_store (s : State) : s.teardown.store = s.store := by
  rcases s.teardown_spec with h | ⟨j, _, _, h⟩ <;> rw [h]

/-- Nothing is torn down outside ABORTING. -/
theorem State.teardown_eq_self {s : State} {j : Job} (hj : s.job = some j) (h : j.tornDown = false) : s.teardown = s := by
  unfold State.teardown
  rw [hj]
  simp [h]

@[simp] theorem State.settleWork_pending (w : Work) (s : State) : (s.settleWork w).pending = s.pending := by
  simp [State.settleWork]

@[simp] theorem State.settleWork_freeIndex (w : Work) (s : State) : (s.settleWork w).freeIndex = s.freeIndex := by
  simp [State.settleWork]

@[simp] theorem State.settleWork_store (w : Work) (s : State) : (s.settleWork w).store = s.store := by
  simp [State.settleWork]

@[simp] theorem State.closeEvent_pending (w : Work) (s : State) : (s.closeEvent w).pending = s.pending := by
  simp [State.closeEvent]

@[simp] theorem State.closeEvent_freeIndex (w : Work) (s : State) : (s.closeEvent w).freeIndex = s.freeIndex := by
  simp [State.closeEvent]

@[simp] theorem State.closeEvent_store (w : Work) (s : State) : (s.closeEvent w).store = s.store := by
  simp [State.closeEvent]

/-- An event at the job either happens, or changes nothing. -/
theorem State.atJobWhen_spec (p : Job → Bool) (f : Job → Work) (s : State) :
    s.atJobWhen p f = s ∨ ∃ j, s.job = some j ∧ p j = true ∧ s.atJobWhen p f = s.closeEvent (f j) := by
  unfold State.atJobWhen
  split
  · rename_i j h
    split
    · rename_i h'
      exact Or.inr ⟨j, h, h', rfl⟩
    · exact Or.inl rfl
  · exact Or.inl rfl

/-- An event at the job whose condition holds. -/
theorem State.atJobWhen_of {p : Job → Bool} {s : State} {j : Job} (f : Job → Work) (hj : s.job = some j) (h : p j = true) :
    s.atJobWhen p f = s.closeEvent (f j) := by
  simp [State.atJobWhen, hj, h]

/-- An event at the job whose condition does not hold. -/
theorem State.atJobWhen_not {p : Job → Bool} {s : State} {j : Job} (f : Job → Work) (hj : s.job = some j) (h : p j = false) :
    s.atJobWhen p f = s := by
  simp [State.atJobWhen, hj, h]

@[simp] theorem State.atJobWhen_pending (p : Job → Bool) (f : Job → Work) (s : State) :
    (s.atJobWhen p f).pending = s.pending := by
  rcases s.atJobWhen_spec p f with h | ⟨j, _, _, h⟩ <;> rw [h]
  simp

@[simp] theorem State.atJobWhen_store (p : Job → Bool) (f : Job → Work) (s : State) :
    (s.atJobWhen p f).store = s.store := by
  rcases s.atJobWhen_spec p f with h | ⟨j, _, _, h⟩ <;> rw [h]
  simp

/-! ### The arbiter -/

@[simp] theorem State.endTransfer_pending (st : ReplyStatus) (b : ReplyBody) (s : State) :
    (s.endTransfer st b).pending = s.pending := by
  unfold State.endTransfer; split <;> simp

@[simp] theorem State.endTransfer_freeIndex (st : ReplyStatus) (b : ReplyBody) (s : State) :
    (s.endTransfer st b).freeIndex = s.freeIndex := by
  unfold State.endTransfer; split <;> simp

@[simp] theorem State.endTransfer_store (st : ReplyStatus) (b : ReplyBody) (s : State) :
    (s.endTransfer st b).store = s.store := by
  unfold State.endTransfer; split <;> simp

@[simp] theorem State.endTransfer_job (st : ReplyStatus) (b : ReplyBody) (s : State) :
    (s.endTransfer st b).job = s.job := by
  unfold State.endTransfer; split <;> simp

/-- What the arbiter's choice can change: the transfers and replies of the link, the transaction in flight, the last requester
granted, and the waiting requests of RU and VE. -/
structure Arbitrated (s t : State) : Prop where
  pending : t.pending = s.pending
  freeIndex : t.freeIndex = s.freeIndex
  memory : t.store.memory = s.store.memory
  damaged : t.store.damaged = s.store.damaged
  clear : t.store.clear = s.store.clear
  link : ∃ transfers replies, t.link = { s.link with transfers := transfers, replies := replies }
  job : t.job = s.job ∨ t.job = s.job.map (fun j => j.mapUnit (fun u => { u with waiting := none }))
    ∨ t.job = s.job.map (fun j => j.mapVerifier (fun v => { v with waiting := none }))

/-- A grant changes no more than an arbiter's choice can. -/
theorem State.grant_spec (who : Requester) (op : StoreOp) (s : State) : Arbitrated s (s.grant who op) := by
  cases who
  · exact ⟨rfl, rfl, rfl, rfl, rfl, ⟨_, _, rfl⟩, Or.inr (Or.inl rfl)⟩
  · exact ⟨rfl, rfl, rfl, rfl, rfl, ⟨_, _, rfl⟩, Or.inr (Or.inr rfl)⟩
  · exact ⟨rfl, rfl, rfl, rfl, rfl, ⟨_, _, rfl⟩, Or.inl rfl⟩

/-- A LOCKED refusal takes the head transfer out of LP's queue and makes its reply. -/
theorem State.refuseLocked_spec (op : StoreOp) (s : State) :
    (s.refuseLocked op).pending = s.pending ∧ (s.refuseLocked op).freeIndex = s.freeIndex
      ∧ (s.refuseLocked op).store = { s.store with lastGranted := .lp } ∧ (s.refuseLocked op).job = s.job
      ∧ ∃ transfers replies, (s.refuseLocked op).link = { s.link with transfers := transfers, replies := replies } := by
  refine ⟨by simp [State.refuseLocked], by simp [State.refuseLocked], by simp [State.refuseLocked],
    by simp [State.refuseLocked], ?_⟩
  unfold State.refuseLocked State.endTransfer
  split
  · exact ⟨_, _, rfl⟩
  · exact ⟨_, _, rfl⟩

/-- What the arbiter can do in an event. -/
theorem State.arbitrateWithin_spec (n : Nat) : ∀ s : State, Arbitrated s (s.arbitrateWithin n) := by
  induction n with
  | zero => exact fun s => ⟨rfl, rfl, rfl, rfl, rfl, ⟨_, _, rfl⟩, Or.inl rfl⟩
  | succ n ih =>
    intro s
    unfold State.arbitrateWithin
    split
    · exact ⟨rfl, rfl, rfl, rfl, rfl, ⟨_, _, rfl⟩, Or.inl rfl⟩
    · split
      · exact ⟨rfl, rfl, rfl, rfl, rfl, ⟨_, _, rfl⟩, Or.inl rfl⟩
      · rename_i who op _
        split
        · obtain ⟨hp, hf, hs, hj, tr, re, hl⟩ := s.refuseLocked_spec op
          obtain ⟨a, b, c, d, e, ⟨tr', re', f⟩, g⟩ := ih (s.refuseLocked op)
          refine ⟨a.trans hp, b.trans hf, ?_, ?_, ?_, ⟨tr', re', ?_⟩, ?_⟩
          · rw [c, hs]
          · rw [d, hs]
          · rw [e, hs]
          · rw [f, hl]
          · rw [hj] at g; exact g
        · exact s.grant_spec who op

/-- What the arbiter's choice at the end of an event can do. -/
theorem State.arbitrate_spec (s : State) : Arbitrated s s.arbitrate := State.arbitrateWithin_spec _ s

/-- The arbiter grants nothing while a transaction is in flight or the start-up clear runs. -/
theorem State.arbitrate_busy {s : State} (h : (s.store.inFlight.isSome || s.store.clear.isSome) = true) : s.arbitrate = s := by
  unfold State.arbitrate State.arbitrateWithin
  simp [h]

/-- The arbiter grants the chosen request at a free store, unless it is a host write to a locked block (R156). -/
theorem State.arbitrate_grants {s : State} {who : Requester} {op : StoreOp} (hf : s.store.inFlight = none)
    (hc : s.store.clear = none) (h : s.chosen = some (who, op)) (hr : s.refuses who op = false) : s.arbitrate = s.grant who op := by
  simp [State.arbitrate, State.arbitrateWithin, hf, hc, h, hr]

/-- The arbiter refuses a chosen host write to a locked block, and goes on (R160). -/
theorem State.arbitrate_refuses {s : State} {op : StoreOp} {t : HostTransfer} {rest : List HostTransfer}
    (hf : s.store.inFlight = none) (hc : s.store.clear = none) (h : s.chosen = some (.lp, op)) (hr : s.refuses .lp op = true)
    (ht : s.link.transfers = t :: rest) : s.arbitrate = (s.refuseLocked op).arbitrate := by
  have hl : (s.refuseLocked op).link.transfers = rest := by simp [State.refuseLocked, State.endTransfer, State.mapStore, ht, Link.reply]
  unfold State.arbitrate
  rw [hl, ht, List.length_cons, State.arbitrateWithin]
  simp [hf, hc, h, hr]

@[simp] theorem State.arbitrate_pending (s : State) : s.arbitrate.pending = s.pending := s.arbitrate_spec.pending

@[simp] theorem State.arbitrate_freeIndex (s : State) : s.arbitrate.freeIndex = s.freeIndex := s.arbitrate_spec.freeIndex

@[simp] theorem State.arbitrate_memory (s : State) : s.arbitrate.store.memory = s.store.memory := s.arbitrate_spec.memory

@[simp] theorem State.arbitrate_damaged (s : State) : s.arbitrate.store.damaged = s.store.damaged := s.arbitrate_spec.damaged

@[simp] theorem State.arbitrate_clear (s : State) : s.arbitrate.store.clear = s.store.clear := s.arbitrate_spec.clear

@[simp] theorem State.closeGranting_pending (w : Work) (s : State) : (s.closeGranting w).pending = s.pending := by
  simp [State.closeGranting]

@[simp] theorem State.closeGranting_memory (w : Work) (s : State) : (s.closeGranting w).store.memory = s.store.memory := by
  simp [State.closeGranting]

@[simp] theorem State.closeGranting_damaged (w : Work) (s : State) : (s.closeGranting w).store.damaged = s.store.damaged := by
  simp [State.closeGranting]

/-! ### The admission of a request -/

/-- A request whose frame passes the tests of the request table while no start-up clear runs is performed. -/
theorem State.accept_open {s : State} {tag code : Byte} {body : Bytes} (perform : State → State)
    (hlen : body.length ≤ Config.maxBody) (htag : s.link.hasTag tag = false)
    (hroom : s.link.table.length < Config.tableEntries) (hclear : s.store.clear = none) :
    s.accept tag code body perform = (perform (s.mapLink (Link.enter tag code))).transmit := by
  simp [State.accept, Nat.not_lt.mpr hlen, htag, Nat.not_le.mpr hroom, hclear]

/-- The same for one of the eighteen codes with the body length of its code. -/
theorem State.request_open {s : State} {tag code : Byte} {body : Bytes} (perform : State → State)
    (hlen : body.length ≤ Config.maxBody) (hok : bodyLengthOk code body = true) (htag : s.link.hasTag tag = false)
    (hroom : s.link.table.length < Config.tableEntries) (hclear : s.store.clear = none) :
    s.request tag code body perform = (perform (s.mapLink (Link.enter tag code))).transmit := by
  rw [State.request, State.accept_open _ hlen htag hroom hclear]
  simp [hok]

/-- A job-level request in a job state that takes it. -/
theorem State.atJobState_taken {s : State} {j : Job} {tag : Byte} {r : JobRequest} (perform : Job → State → State)
    (hj : s.job = some j) (h : jobTest r (some j.phase) = none) : s.atJobState tag r perform = perform j s := by
  simp [State.atJobState, hj, h]

/-- A job-level request that the job-state test refuses. -/
theorem State.atJobState_refused {s : State} {tag : Byte} {r : JobRequest} {st : ReplyStatus} (perform : Job → State → State)
    (h : jobTest r (s.job.map (fun j => j.phase)) = some st) : s.atJobState tag r perform = s.reply tag st .empty := by
  unfold State.atJobState
  rw [h]

/-- The work of an accepted request keeps the queue of commands when the request's own part does. -/
theorem State.accept_pending {s : State} {tag code : Byte} {body : Bytes} (perform : State → State)
    (h : ∀ s, (perform s).pending = s.pending) : (s.accept tag code body perform).pending = s.pending := by
  unfold State.accept
  split <;> [rfl; split <;> [rfl; split <;> [rfl; skip]]]
  rw [State.transmit_pending]
  split
  · simp
  · simp [h]

end Sys2Proof.Machine
end

