-- ==== Sys2Proof/Laws/Decoder.lean ====
section
/-! SUPPORT. What SD can change: its own state, the queue, the ring, the window it takes from, and at JC the job state, the stop
reason and the fault record with the signals of a first fault. -/

namespace Sys2Proof.Machine

/-- All that SD's processing can change of a job. -/
def Job.DecodedFrom (j j' : Job) : Prop :=
  ∃ decoder queue ring phase stopReason faultRecord decoderQuiet signals,
    j' = { j with
      decoder := decoder, queue := queue, ring := ring, phase := phase, stopReason := stopReason
      faultRecord := faultRecord, decoderQuiet := decoderQuiet, signals := signals }

theorem Job.DecodedFrom.refl (j : Job) : j.DecodedFrom j :=
  ⟨j.decoder, j.queue, j.ring, j.phase, j.stopReason, j.faultRecord, j.decoderQuiet, j.signals, rfl⟩

theorem Job.DecodedFrom.trans {a b c : Job} (h : a.DecodedFrom b) (g : b.DecodedFrom c) : a.DecodedFrom c := by
  obtain ⟨_, _, _, _, _, _, _, _, rfl⟩ := h
  obtain ⟨d, q, r, p, s, f, y, z, rfl⟩ := g
  exact ⟨d, q, r, p, s, f, y, z, rfl⟩

/-- A change of SD's own state. -/
theorem Job.decoded_mapDecoder (f : Decoder → Decoder) (j : Job) : j.DecodedFrom (j.mapDecoder f) :=
  ⟨_, j.queue, j.ring, j.phase, j.stopReason, j.faultRecord, j.decoderQuiet, j.signals, rfl⟩

theorem Job.decoded_flushOutput (j : Job) : j.DecodedFrom j.flushOutput :=
  ⟨_, _, j.ring, j.phase, j.stopReason, j.faultRecord, j.decoderQuiet, j.signals, rfl⟩

theorem Job.decoded_produce (items : List Item) (j : Job) : j.DecodedFrom (j.produce items) :=
  (Job.decoded_mapDecoder _ j).trans (Job.decoded_flushOutput _)

theorem Job.decoded_reportStop (r : StopReason) (j : Job) : j.DecodedFrom (j.reportStop r) := by
  unfold Job.reportStop
  split
  · exact ⟨j.decoder, j.queue, j.ring, _, _, j.faultRecord, j.decoderQuiet, j.signals, rfl⟩
  · exact Job.DecodedFrom.refl j

theorem Job.decoded_reportFault (r : FaultRecord) (j : Job) : j.DecodedFrom (j.reportFault r) := by
  unfold Job.reportFault
  split
  all_goals first
    | exact Job.DecodedFrom.refl j
    | exact ⟨j.decoder, j.queue, j.ring, _, j.stopReason, _, _, _, rfl⟩

theorem Job.decoded_testLimit (ended : Bool) (j : Job) : j.DecodedFrom (j.testLimit ended) := by
  unfold Job.testLimit
  split
  · split
    · exact (Job.decoded_mapDecoder _ j).trans (Job.decoded_reportStop _ _)
    · split
      · exact (Job.decoded_mapDecoder _ j).trans (Job.decoded_reportStop _ _)
      · exact Job.DecodedFrom.refl j
  · exact Job.DecodedFrom.refl j

theorem Job.decoded_dropRecord (j : Job) : j.DecodedFrom j.dropRecord :=
  ⟨_, j.queue, _, j.phase, j.stopReason, j.faultRecord, j.decoderQuiet, j.signals, rfl⟩

theorem Job.decoded_decoderFault (c : FaultCode) (n : Option Word16) (b : Option Nat) (p : StreamPlace) (j : Job) :
    j.DecodedFrom (j.decoderFault c n b p) :=
  ((Job.decoded_dropRecord j).trans (Job.decoded_mapDecoder _ _)).trans (Job.decoded_reportFault _ _)

theorem Job.decoded_processByte {b : StreamByte} {j j' : Job} (h : j.processByte b = some j') : j.DecodedFrom j' := by
  unfold Job.processByte at h
  split at h
  · simp at h
  · simp only [Option.some.injEq] at h
    subst h
    exact Job.decoded_decoderFault _ _ _ _ _
  · simp only [Option.some.injEq] at h
    subst h
    refine Job.DecodedFrom.trans ?_ ((Job.decoded_produce _ _).trans (Job.decoded_testLimit _ _))
    exact ⟨_, j.queue, _, j.phase, j.stopReason, j.faultRecord, j.decoderQuiet, j.signals, rfl⟩

/-- Processing stream bytes changes no more than SD can. -/
theorem Job.decoded_processBytes (bs : List StreamByte) : ∀ j : Job, j.DecodedFrom (j.processBytes bs) := by
  induction bs with
  | nil => exact fun j => Job.decoded_mapDecoder (fun d => { d with waitingBytes := [] }) j
  | cons b rest ih =>
    intro j
    unfold Job.processBytes
    split
    · exact Job.decoded_mapDecoder _ j
    · split
      · split
        · rename_i j' h
          exact (Job.decoded_processByte h).trans (ih j')
        · exact Job.decoded_mapDecoder _ j
      · exact Job.decoded_mapDecoder _ j

/-- SD going on changes no more than SD can. -/
theorem Job.decoded_wakeDecoder (j : Job) : j.DecodedFrom j.wakeDecoder := by
  unfold Job.wakeDecoder
  refine (Job.decoded_flushOutput j).trans (Job.DecodedFrom.trans ?_ (Job.decoded_processBytes _ _))
  split
  · exact Job.DecodedFrom.refl _
  · exact Job.decoded_testLimit _ _

/-- Matching a byte changes no more than SD can. -/
theorem Job.decoded_matchByte (b : StreamByte) (j : Job) : j.DecodedFrom (j.matchByte b) := by
  unfold Job.matchByte
  split
  · exact (Job.decoded_mapDecoder _ j).trans (Job.decoded_processBytes _ _)
  · refine (Job.decoded_mapDecoder (fun d => { d with escape := .clear }) j).trans ?_
    dsimp only
    split
    · split
      · exact Job.decoded_mapDecoder (fun _ => _) _
      · exact Job.decoded_decoderFault _ _ _ _ _
    · split
      · exact Job.decoded_mapDecoder _ _
      · exact Job.decoded_decoderFault _ _ _ _ _
  · split
    · exact Job.decoded_mapDecoder _ _
    · exact Job.decoded_decoderFault _ _ _ _ _

/-- Taking a byte changes the window besides. -/
theorem Job.takeByte_spec (j : Job) : ∃ window, ({ j with window := window } : Job).DecodedFrom j.takeByte := by
  unfold Job.takeByte
  split
  · split
    · exact ⟨_, Job.decoded_matchByte _ _⟩
    · exact ⟨j.window, Job.DecodedFrom.refl j⟩
  · exact ⟨j.window, Job.DecodedFrom.refl j⟩

/-- Nothing waits: SD going on changes nothing. -/
theorem Job.wakeDecoder_nothing {j : Job} (h1 : j.decoder.waitingOutput = []) (h2 : j.decoder.waitingBytes = []) :
    j.wakeDecoder = j := by
  have hf : j.flushOutput = j := by
    cases j with
    | mk a1 a2 a3 a4 a5 a6 a7 a8 a9 a10 a11 decoder a13 a14 a15 a16 a17 =>
      cases decoder
      simp only at h1 h2
      subst h1 h2
      simp [Job.flushOutput]
  unfold Job.wakeDecoder
  rw [hf]
  simp only [h1, List.isEmpty_nil, if_true, h2, Job.processBytes, Job.waitBytes]
  cases j with
  | mk a1 a2 a3 a4 a5 a6 a7 a8 a9 a10 a11 decoder a13 a14 a15 a16 a17 =>
    cases decoder
    simp only at h2
    subst h2
    rfl

/-! ### Check bytes (R49, R57) -/

/-- A sum of bytes is their numbers' sum modulo 256. -/
theorem foldl_add_toNat (bytes : Bytes) (b : Byte) :
    (bytes.foldl (· + ·) b).toNat = (b.toNat + (bytes.map BitVec.toNat).sum) % 256 := by
  induction bytes generalizing b with
  | nil => simp only [List.foldl_nil, List.map_nil, List.sum_nil]; omega
  | cons a rest ih =>
    rw [List.foldl_cons, ih, BitVec.toNat_add, List.map_cons, List.sum_cons]
    omega

/-- A record's check, as arithmetic on numbers. -/
theorem checkSumOk_eq (kind : Byte) (bytes : Bytes) :
    checkSumOk kind bytes = decide ((kind.toNat + (bytes.map BitVec.toNat).sum) % 256 = 0) := by
  unfold checkSumOk
  rw [Bool.eq_iff_iff, beq_iff_eq, decide_eq_true_iff, ← BitVec.toNat_inj, foldl_add_toNat]
  rfl

end Sys2Proof.Machine
end

