-- ==== Sys2Proof/Laws/Link.lean ====
section
/-! SUPPORT. What the operations of the link do: posting, replying, transmitting, discarding. -/

namespace Sys2Proof.Machine

/-- Marking a notice sent changes no notice and no number. -/
@[simp] theorem markFirstUnsent_sequences (ns : List HeldNotice) :
    (markFirstUnsent ns).map (fun n => n.sequence) = ns.map (fun n => n.sequence) := by
  induction ns with
  | nil => rfl
  | cons n rest ih => unfold markFirstUnsent; split <;> simp_all

@[simp] theorem markFirstUnsent_notices (ns : List HeldNotice) :
    (markFirstUnsent ns).map (fun n => n.notice) = ns.map (fun n => n.notice) := by
  induction ns with
  | nil => rfl
  | cons n rest ih => unfold markFirstUnsent; split <;> simp_all

@[simp] theorem markFirstUnsent_length (ns : List HeldNotice) : (markFirstUnsent ns).length = ns.length := by
  have h := congrArg List.length (markFirstUnsent_sequences ns)
  rwa [List.length_map, List.length_map] at h

/-- What the transmit arbiter's choice can do: nothing, start the oldest reply, or start and mark the oldest unsent notice. -/
theorem Link.transmit_spec (l : Link) :
    l.transmit = l ∨ (∃ r rest, l.sending = none ∧ l.replies = r :: rest ∧ l.transmit = { l with sending := some (.reply r) })
      ∨ ∃ n, l.sending = none ∧ l.notices.find? (fun n => !n.sent) = some n ∧ l.transmit = l.sendNotice n := by
  unfold Link.transmit
  cases hs : l.sending with
  | some f => exact Or.inl rfl
  | none =>
    cases hn : l.notices.find? (fun n => !n.sent) with
    | none =>
      cases hr : l.replies with
      | nil => exact Or.inl rfl
      | cons r rest => exact Or.inr (Or.inl ⟨r, rest, rfl, rfl, rfl⟩)
    | some n =>
      cases hr : l.replies with
      | nil => exact Or.inr (Or.inr ⟨n, rfl, rfl, rfl⟩)
      | cons r rest =>
        by_cases h4 : 4 ≤ l.replyRun
        · exact Or.inr (Or.inr ⟨n, rfl, rfl, by simp [h4]⟩)
        · exact Or.inr (Or.inl ⟨r, rest, rfl, rfl, by simp [h4]⟩)

/-- A busy transmitter is left as it is. -/
theorem Link.transmit_busy {l : Link} (h : l.sending.isSome = true) : l.transmit = l := by
  unfold Link.transmit
  cases hs : l.sending with
  | some f => rfl
  | none => simp [hs] at h

@[simp] theorem Link.transmit_sequences (l : Link) :
    l.transmit.notices.map (fun n => n.sequence) = l.notices.map (fun n => n.sequence) := by
  rcases l.transmit_spec with h | ⟨_, _, _, _, h⟩ | ⟨_, _, _, h⟩ <;> rw [h]
  simp [Link.sendNotice]

@[simp] theorem Link.transmit_noticeBodies (l : Link) :
    l.transmit.notices.map (fun n => n.notice) = l.notices.map (fun n => n.notice) := by
  rcases l.transmit_spec with h | ⟨_, _, _, _, h⟩ | ⟨_, _, _, h⟩ <;> rw [h]
  simp [Link.sendNotice]

@[simp] theorem Link.transmit_rate (l : Link) : l.transmit.rate = l.rate := by
  rcases l.transmit_spec with h | ⟨_, _, _, _, h⟩ | ⟨_, _, _, h⟩ <;> rw [h]
  rfl

@[simp] theorem Link.transmit_receiver (l : Link) : l.transmit.receiver = l.receiver := by
  rcases l.transmit_spec with h | ⟨_, _, _, _, h⟩ | ⟨_, _, _, h⟩ <;> rw [h]
  rfl

@[simp] theorem Link.transmit_errors (l : Link) : l.transmit.errors = l.errors := by
  rcases l.transmit_spec with h | ⟨_, _, _, _, h⟩ | ⟨_, _, _, h⟩ <;> rw [h]
  rfl

@[simp] theorem Link.transmit_table (l : Link) : l.transmit.table = l.table := by
  rcases l.transmit_spec with h | ⟨_, _, _, _, h⟩ | ⟨_, _, _, h⟩ <;> rw [h]
  rfl

@[simp] theorem Link.transmit_replies (l : Link) : l.transmit.replies = l.replies := by
  rcases l.transmit_spec with h | ⟨_, _, _, _, h⟩ | ⟨_, _, _, h⟩ <;> rw [h]
  rfl

@[simp] theorem Link.transmit_transfers (l : Link) : l.transmit.transfers = l.transfers := by
  rcases l.transmit_spec with h | ⟨_, _, _, _, h⟩ | ⟨_, _, _, h⟩ <;> rw [h]
  rfl

@[simp] theorem Link.transmit_replyRun (l : Link) : l.transmit.replyRun = l.replyRun := by
  rcases l.transmit_spec with h | ⟨_, _, _, _, h⟩ | ⟨_, _, _, h⟩ <;> rw [h]
  rfl

@[simp] theorem Link.transmit_nextNotice (l : Link) : l.transmit.nextNotice = l.nextNotice := by
  rcases l.transmit_spec with h | ⟨_, _, _, _, h⟩ | ⟨_, _, _, h⟩ <;> rw [h]
  rfl

@[simp] theorem Link.transmit_dropped (l : Link) : l.transmit.dropped = l.dropped := by
  rcases l.transmit_spec with h | ⟨_, _, _, _, h⟩ | ⟨_, _, _, h⟩ <;> rw [h]
  rfl

/-- A notice posted while fewer than 8 are held is queued with the next number; otherwise it is dropped and counted. -/
theorem Link.post_spec (n : Notice) (l : Link) :
    (l.notices.length < Config.noticePlaces ∧ l.post n = { l with
      notices := l.notices ++ [⟨n, l.nextNotice, false⟩]
      nextNotice := l.nextNotice + 1 })
    ∨ (Config.noticePlaces ≤ l.notices.length ∧ l.post n = { l with dropped := saturate byteCounterMax (l.dropped + 1) }) := by
  unfold Link.post
  split
  · rename_i h
    exact Or.inl ⟨h, rfl⟩
  · rename_i h
    exact Or.inr ⟨Nat.not_lt.mp h, rfl⟩

@[simp] theorem Link.post_rate (n : Notice) (l : Link) : (l.post n).rate = l.rate := by
  rcases l.post_spec n with ⟨_, h⟩ | ⟨_, h⟩ <;> rw [h]

@[simp] theorem Link.postAll_rate (ns : List Notice) : ∀ l : Link, (l.postAll ns).rate = l.rate := by
  induction ns with
  | nil => exact fun _ => rfl
  | cons n rest ih => exact fun l => (ih (l.post n)).trans (l.post_rate n)

@[simp] theorem Link.post_receiver (n : Notice) (l : Link) : (l.post n).receiver = l.receiver := by
  rcases l.post_spec n with ⟨_, h⟩ | ⟨_, h⟩ <;> rw [h]

@[simp] theorem Link.postAll_receiver (ns : List Notice) : ∀ l : Link, (l.postAll ns).receiver = l.receiver := by
  induction ns with
  | nil => exact fun _ => rfl
  | cons n rest ih => exact fun l => (ih (l.post n)).trans (l.post_receiver n)

@[simp] theorem Link.post_errors (n : Notice) (l : Link) : (l.post n).errors = l.errors := by
  rcases l.post_spec n with ⟨_, h⟩ | ⟨_, h⟩ <;> rw [h]

@[simp] theorem Link.postAll_errors (ns : List Notice) : ∀ l : Link, (l.postAll ns).errors = l.errors := by
  induction ns with
  | nil => exact fun _ => rfl
  | cons n rest ih => exact fun l => (ih (l.post n)).trans (l.post_errors n)

@[simp] theorem Link.post_table (n : Notice) (l : Link) : (l.post n).table = l.table := by
  rcases l.post_spec n with ⟨_, h⟩ | ⟨_, h⟩ <;> rw [h]

@[simp] theorem Link.postAll_table (ns : List Notice) : ∀ l : Link, (l.postAll ns).table = l.table := by
  induction ns with
  | nil => exact fun _ => rfl
  | cons n rest ih => exact fun l => (ih (l.post n)).trans (l.post_table n)

@[simp] theorem Link.post_replies (n : Notice) (l : Link) : (l.post n).replies = l.replies := by
  rcases l.post_spec n with ⟨_, h⟩ | ⟨_, h⟩ <;> rw [h]

@[simp] theorem Link.postAll_replies (ns : List Notice) : ∀ l : Link, (l.postAll ns).replies = l.replies := by
  induction ns with
  | nil => exact fun _ => rfl
  | cons n rest ih => exact fun l => (ih (l.post n)).trans (l.post_replies n)

@[simp] theorem Link.post_transfers (n : Notice) (l : Link) : (l.post n).transfers = l.transfers := by
  rcases l.post_spec n with ⟨_, h⟩ | ⟨_, h⟩ <;> rw [h]

@[simp] theorem Link.postAll_transfers (ns : List Notice) : ∀ l : Link, (l.postAll ns).transfers = l.transfers := by
  induction ns with
  | nil => exact fun _ => rfl
  | cons n rest ih => exact fun l => (ih (l.post n)).trans (l.post_transfers n)

@[simp] theorem Link.post_sending (n : Notice) (l : Link) : (l.post n).sending = l.sending := by
  rcases l.post_spec n with ⟨_, h⟩ | ⟨_, h⟩ <;> rw [h]

@[simp] theorem Link.postAll_sending (ns : List Notice) : ∀ l : Link, (l.postAll ns).sending = l.sending := by
  induction ns with
  | nil => exact fun _ => rfl
  | cons n rest ih => exact fun l => (ih (l.post n)).trans (l.post_sending n)

@[simp] theorem Link.post_replyRun (n : Notice) (l : Link) : (l.post n).replyRun = l.replyRun := by
  rcases l.post_spec n with ⟨_, h⟩ | ⟨_, h⟩ <;> rw [h]

@[simp] theorem Link.postAll_replyRun (ns : List Notice) : ∀ l : Link, (l.postAll ns).replyRun = l.replyRun := by
  induction ns with
  | nil => exact fun _ => rfl
  | cons n rest ih => exact fun l => (ih (l.post n)).trans (l.post_replyRun n)

@[simp] theorem Link.reply_rate (tag : Byte) (st : ReplyStatus) (b : ReplyBody) (l : Link) :
    (l.reply tag st b).rate = l.rate := rfl

@[simp] theorem Link.reply_receiver (tag : Byte) (st : ReplyStatus) (b : ReplyBody) (l : Link) :
    (l.reply tag st b).receiver = l.receiver := rfl

@[simp] theorem Link.reply_errors (tag : Byte) (st : ReplyStatus) (b : ReplyBody) (l : Link) :
    (l.reply tag st b).errors = l.errors := rfl

@[simp] theorem Link.reply_table (tag : Byte) (st : ReplyStatus) (b : ReplyBody) (l : Link) :
    (l.reply tag st b).table = l.table := rfl

@[simp] theorem Link.reply_replies (tag : Byte) (st : ReplyStatus) (b : ReplyBody) (l : Link) :
    (l.reply tag st b).replies = l.replies ++ [⟨tag, st, b⟩] := rfl

@[simp] theorem Link.reply_transfers (tag : Byte) (st : ReplyStatus) (b : ReplyBody) (l : Link) :
    (l.reply tag st b).transfers = l.transfers := rfl

@[simp] theorem Link.reply_sending (tag : Byte) (st : ReplyStatus) (b : ReplyBody) (l : Link) :
    (l.reply tag st b).sending = l.sending := rfl

@[simp] theorem Link.reply_replyRun (tag : Byte) (st : ReplyStatus) (b : ReplyBody) (l : Link) :
    (l.reply tag st b).replyRun = l.replyRun := rfl

@[simp] theorem Link.reply_notices (tag : Byte) (st : ReplyStatus) (b : ReplyBody) (l : Link) :
    (l.reply tag st b).notices = l.notices := rfl

@[simp] theorem Link.reply_nextNotice (tag : Byte) (st : ReplyStatus) (b : ReplyBody) (l : Link) :
    (l.reply tag st b).nextNotice = l.nextNotice := rfl

@[simp] theorem Link.reply_dropped (tag : Byte) (st : ReplyStatus) (b : ReplyBody) (l : Link) :
    (l.reply tag st b).dropped = l.dropped := rfl

@[simp] theorem Link.discard_rate (r : DiscardReason) (l : Link) : (l.discard r).rate = l.rate := rfl

@[simp] theorem Link.discard_receiver (r : DiscardReason) (l : Link) : (l.discard r).receiver = .hunting := rfl

@[simp] theorem Link.discard_errors (r : DiscardReason) (l : Link) : (l.discard r).errors = l.errors.count r := rfl

@[simp] theorem Link.discard_table (r : DiscardReason) (l : Link) : (l.discard r).table = l.table := rfl

@[simp] theorem Link.discard_replies (r : DiscardReason) (l : Link) : (l.discard r).replies = l.replies := rfl

@[simp] theorem Link.discard_transfers (r : DiscardReason) (l : Link) : (l.discard r).transfers = l.transfers := rfl

@[simp] theorem Link.discard_sending (r : DiscardReason) (l : Link) : (l.discard r).sending = l.sending := rfl

@[simp] theorem Link.discard_replyRun (r : DiscardReason) (l : Link) : (l.discard r).replyRun = l.replyRun := rfl

@[simp] theorem Link.discard_notices (r : DiscardReason) (l : Link) : (l.discard r).notices = l.notices := rfl

@[simp] theorem Link.discard_nextNotice (r : DiscardReason) (l : Link) : (l.discard r).nextNotice = l.nextNotice := rfl

@[simp] theorem Link.discard_dropped (r : DiscardReason) (l : Link) : (l.discard r).dropped = l.dropped := rfl

@[simp] theorem Link.enter_rate (tag code : Byte) (l : Link) : (l.enter tag code).rate = l.rate := rfl

@[simp] theorem Link.enter_receiver (tag code : Byte) (l : Link) : (l.enter tag code).receiver = .hunting := rfl

@[simp] theorem Link.enter_errors (tag code : Byte) (l : Link) : (l.enter tag code).errors = l.errors := rfl

@[simp] theorem Link.enter_table (tag code : Byte) (l : Link) : (l.enter tag code).table = l.table ++ [⟨tag, code⟩] := rfl

@[simp] theorem Link.enter_replies (tag code : Byte) (l : Link) : (l.enter tag code).replies = l.replies := rfl

@[simp] theorem Link.enter_transfers (tag code : Byte) (l : Link) : (l.enter tag code).transfers = l.transfers := rfl

@[simp] theorem Link.enter_sending (tag code : Byte) (l : Link) : (l.enter tag code).sending = l.sending := rfl

@[simp] theorem Link.enter_replyRun (tag code : Byte) (l : Link) : (l.enter tag code).replyRun = l.replyRun := rfl

@[simp] theorem Link.enter_notices (tag code : Byte) (l : Link) : (l.enter tag code).notices = l.notices := rfl

@[simp] theorem Link.enter_nextNotice (tag code : Byte) (l : Link) : (l.enter tag code).nextNotice = l.nextNotice := rfl

@[simp] theorem Link.enter_dropped (tag code : Byte) (l : Link) : (l.enter tag code).dropped = l.dropped := rfl

/-- A counter that saturates stays at most its largest value. -/
theorem saturate_le (limit n : Nat) : saturate limit n ≤ limit := Nat.min_le_right _ _

/-- Below its largest value a counter is exact. -/
theorem saturate_eq {limit n : Nat} (h : n ≤ limit) : saturate limit n = n := Nat.min_eq_left h

end Sys2Proof.Machine
end

