-- ==== Sys2Proof/Laws/Memory.lean ====
section
/-! SUPPORT. The memory of the block store: every operation keeps the canonical form, and a byte read after a write is the byte
written or the one held before. -/

namespace Sys2Proof.Machine

theorem Memory.wf_nil : Memory.wf [] := ⟨List.Pairwise.nil, by simp⟩

/-- The cells of a run of bytes lie at its addresses and hold its bytes that are not 00h. -/
theorem Memory.mem_cells {bytes : Bytes} : ∀ {a : Nat} {c : Host.Cell}, c ∈ Memory.cells a bytes →
    a ≤ c.1 ∧ c.1 < a + bytes.length ∧ c.2 ≠ 0 := by
  induction bytes with
  | nil => intro a c h; simp [Memory.cells] at h
  | cons b rest ih =>
    intro a c h
    unfold Memory.cells at h
    split at h
    · obtain ⟨h1, h2, h3⟩ := ih h
      exact ⟨by omega, by simp only [List.length_cons]; omega, h3⟩
    · rename_i hb
      rcases List.mem_cons.mp h with rfl | h
      · exact ⟨Nat.le_refl _, by simp, hb⟩
      · obtain ⟨h1, h2, h3⟩ := ih h
        exact ⟨by omega, by simp only [List.length_cons]; omega, h3⟩

/-- The cells of a run of bytes are in rising order. -/
theorem Memory.cells_pairwise (bytes : Bytes) : ∀ a : Nat, (Memory.cells a bytes).Pairwise (fun a b => a.1 < b.1) := by
  induction bytes with
  | nil => intro a; exact List.Pairwise.nil
  | cons b rest ih =>
    intro a
    unfold Memory.cells
    split
    · exact ih _
    · refine List.pairwise_cons.mpr ⟨?_, ih _⟩
      intro c hc
      exact (Memory.mem_cells hc).1

/-- A write keeps the canonical form. -/
theorem Memory.wf_write {m : List Host.Cell} (h : Memory.wf m) {a : Nat} {bytes : Bytes} (hb : a + bytes.length ≤ storeBytes) :
    Memory.wf (Memory.write m a bytes) := by
  obtain ⟨hp, hc⟩ := h
  constructor
  · unfold Memory.write
    refine List.pairwise_append.mpr ⟨List.pairwise_append.mpr ⟨hp.filter _, Memory.cells_pairwise _ _, ?_⟩, hp.filter _, ?_⟩
    · intro x hx y hy
      have := (Memory.mem_cells hy).1
      simp only [List.mem_filter, decide_eq_true_eq] at hx
      omega
    · intro x hx y hy
      simp only [List.mem_filter, decide_eq_true_eq] at hy
      rcases List.mem_append.mp hx with hx | hx
      · simp only [List.mem_filter, decide_eq_true_eq] at hx
        omega
      · have := (Memory.mem_cells hx).2.1
        omega
  · intro c h
    unfold Memory.write at h
    rcases List.mem_append.mp h with h | h
    · rcases List.mem_append.mp h with h | h
      · exact hc c (List.mem_filter.mp h).1
      · obtain ⟨_, h2, h3⟩ := Memory.mem_cells h
        exact ⟨h3, by omega⟩
    · exact hc c (List.mem_filter.mp h).1

/-- In a list whose addresses rise, the byte at a listed address is the one listed. -/
theorem Memory.read_of_mem {m : List Host.Cell} (h : m.Pairwise (fun a b => a.1 < b.1)) {c : Host.Cell} (hc : c ∈ m) :
    Memory.read m c.1 = c.2 := by
  induction m with
  | nil => simp at hc
  | cons x rest ih =>
    obtain ⟨hx, hr⟩ := List.pairwise_cons.mp h
    rcases List.mem_cons.mp hc with rfl | hc
    · simp [Memory.read]
    · have : x.1 ≠ c.1 := Nat.ne_of_lt (hx c hc)
      have key := ih hr hc
      unfold Memory.read at key ⊢
      rw [List.find?_cons_of_neg (by simpa using this)]
      exact key

/-- A byte at an address that no cell lists reads as 00h. -/
theorem Memory.read_of_not_mem {m : List Host.Cell} {a : Nat} (h : ∀ c ∈ m, c.1 ≠ a) : Memory.read m a = 0 := by
  unfold Memory.read
  have : m.find? (fun c => c.1 == a) = none := by
    rw [List.find?_eq_none]
    intro c hc
    simpa using h c hc
  rw [this]

/-- Reads in two lists with the same cells at an address agree. -/
theorem Memory.read_congr {m n : List Host.Cell} (hm : m.Pairwise (fun a b => a.1 < b.1))
    (hn : n.Pairwise (fun a b => a.1 < b.1)) {a : Nat} (h : ∀ b : Byte, (a, b) ∈ m ↔ (a, b) ∈ n) :
    Memory.read m a = Memory.read n a := by
  by_cases hx : ∃ b : Byte, (a, b) ∈ m
  · obtain ⟨b, hb⟩ := hx
    rw [Memory.read_of_mem (c := (a, b)) hm hb, Memory.read_of_mem (c := (a, b)) hn ((h b).mp hb)]
  · rw [Memory.read_of_not_mem, Memory.read_of_not_mem]
    · rintro ⟨x, y⟩ hc rfl
      exact hx ⟨y, (h y).mpr hc⟩
    · rintro ⟨x, y⟩ hc rfl
      exact hx ⟨y, hc⟩

/-- The cell at an offset of a run of bytes is its byte, unless that is 00h. -/
theorem Memory.mem_cells_iff {bytes : Bytes} : ∀ {a i : Nat} {b : Byte}, i < bytes.length →
    ((a + i, b) ∈ Memory.cells a bytes ↔ bytes[i]? = some b ∧ b ≠ 0) := by
  induction bytes with
  | nil => intro a i b h; simp at h
  | cons x rest ih =>
    intro a i b h
    have tail : ∀ i', (a + (i' + 1), b) ∈ Memory.cells (a + 1) rest ↔ (a + 1 + i', b) ∈ Memory.cells (a + 1) rest := by
      intro i'
      rw [show a + (i' + 1) = a + 1 + i' by omega]
    have head : (a, b) ∉ Memory.cells (a + 1) rest := by
      intro hc
      have := (Memory.mem_cells hc).1
      simp at this
    unfold Memory.cells
    cases i with
    | zero =>
      split
      · rename_i hx
        simp only [Nat.add_zero, head, List.getElem?_cons_zero, Option.some.injEq, false_iff, not_and, not_not]
        rintro rfl
        exact hx
      · rename_i hx
        simp only [Nat.add_zero, List.mem_cons, head, or_false, Prod.mk.injEq, true_and, List.getElem?_cons_zero,
          Option.some.injEq]
        constructor
        · rintro rfl
          exact ⟨rfl, hx⟩
        · rintro ⟨rfl, _⟩
          rfl
    | succ i' =>
      have hi : i' < rest.length := by simpa using h
      split
      · rw [tail, ih hi]
        simp
      · simp only [List.mem_cons, Prod.mk.injEq]
        rw [tail, ih hi]
        simp only [List.getElem?_cons_succ]
        constructor
        · rintro (⟨h1, _⟩ | h1)
          · omega
          · exact h1
        · exact Or.inr

/-- A byte outside the run written reads as before. -/
theorem Memory.read_write_of_outside {m : List Host.Cell} (h : Memory.wf m) {a x : Nat} {bytes : Bytes}
    (hb : a + bytes.length ≤ storeBytes) (hx : x < a ∨ a + bytes.length ≤ x) :
    Memory.read (Memory.write m a bytes) x = Memory.read m x := by
  refine Memory.read_congr (Memory.wf_write h hb).1 h.1 ?_
  intro b
  unfold Memory.write
  simp only [List.mem_append, List.mem_filter, decide_eq_true_eq]
  constructor
  · rintro ((⟨h1, _⟩ | h1) | ⟨h1, _⟩)
    · exact h1
    · have := Memory.mem_cells h1
      simp only at this
      omega
    · exact h1
  · intro h1
    rcases hx with hx | hx
    · exact Or.inl (Or.inl ⟨h1, hx⟩)
    · exact Or.inr ⟨h1, hx⟩

/-- A byte of the run written reads as written. -/
theorem Memory.read_write_of_inside {m : List Host.Cell} (h : Memory.wf m) {a i : Nat} {bytes : Bytes}
    (hb : a + bytes.length ≤ storeBytes) {b : Byte} (hi : bytes[i]? = some b) :
    Memory.read (Memory.write m a bytes) (a + i) = b := by
  have hlt : i < bytes.length := by
    rcases Nat.lt_or_ge i bytes.length with h1 | h1
    · exact h1
    · rw [List.getElem?_eq_none h1] at hi
      simp at hi
  have hw := Memory.wf_write h hb
  by_cases hz : b = 0
  · rw [hz]
    refine Memory.read_of_not_mem ?_
    rintro ⟨x, y⟩ hc rfl
    unfold Memory.write at hc
    simp only [List.mem_append, List.mem_filter, decide_eq_true_eq] at hc
    rcases hc with (⟨_, h2⟩ | h1) | ⟨_, h2⟩
    · omega
    · rw [Memory.mem_cells_iff hlt, hi] at h1
      exact h1.2 ((Option.some.inj h1.1).symm.trans hz)
    · omega
  · refine Memory.read_of_mem (c := (a + i, b)) hw.1 ?_
    unfold Memory.write
    exact List.mem_append_left _ (List.mem_append_right _ ((Memory.mem_cells_iff hlt).mpr ⟨hi, hz⟩))

/-! ### Blocks -/

/-- A block always has 512 bytes. -/
@[simp] theorem blockOf_length (bytes : Bytes) : (blockOf bytes).length = Config.blockBytes := by
  simp [blockOf]

/-- The bytes of a block that has its 512 bytes are those given. -/
theorem blockOf_eq {bytes : Bytes} (h : bytes.length = Config.blockBytes) : blockOf bytes = bytes := by
  unfold blockOf
  rw [← h]
  exact List.take_left

/-- A block lies inside the store. -/
theorem block_inside (i : BlockIndex) (bytes : Bytes) : i.val * Config.blockBytes + (blockOf bytes).length ≤ storeBytes := by
  have := i.isLt
  simp only [blockOf_length, storeBytes]
  simp only [Config.storeBlocks, Config.blockBytes] at *
  omega

/-- The completion of a write keeps the memory's canonical form. -/
theorem Store.writeBlock_wf {st : Store} (h : Memory.wf st.memory) (i : BlockIndex) (content : Bytes) :
    Memory.wf (st.writeBlock i content).memory :=
  Memory.wf_write h (block_inside i content)

/-- Damage to a block keeps the memory's canonical form. -/
theorem Store.damageBlock_wf {st : Store} (h : Memory.wf st.memory) (i : BlockIndex) (content : Bytes) :
    Memory.wf (st.damageBlock i content).memory :=
  Memory.wf_write h (block_inside i content)

@[simp] theorem Store.writeBlock_clear (st : Store) (i : BlockIndex) (content : Bytes) :
    (st.writeBlock i content).clear = st.clear := rfl

@[simp] theorem Store.writeBlock_inFlight (st : Store) (i : BlockIndex) (content : Bytes) :
    (st.writeBlock i content).inFlight = st.inFlight := rfl

@[simp] theorem Store.writeBlock_lastGranted (st : Store) (i : BlockIndex) (content : Bytes) :
    (st.writeBlock i content).lastGranted = st.lastGranted := rfl

/-- After a write completes, with no start-up clear, the block holds the bytes written. -/
theorem Store.content_writeBlock {st : Store} (h : Memory.wf st.memory) (hc : st.clear = none) (i : BlockIndex) (content : Bytes) :
    (st.writeBlock i content).content i.val = blockOf content := by
  refine List.ext_getElem? ?_
  intro k
  unfold Store.content
  rw [List.getElem?_map]
  rcases Nat.lt_or_ge k Config.blockBytes with hk | hk
  · rw [List.getElem?_range hk]
    have hk' : k < (blockOf content).length := by rw [blockOf_length]; exact hk
    rw [List.getElem?_eq_getElem hk']
    refine congrArg some ?_
    unfold Store.byteAt
    rw [Store.writeBlock_clear, hc]
    exact Memory.read_write_of_inside h (block_inside i content) (List.getElem?_eq_getElem hk')
  · have h1 : (List.range Config.blockBytes)[k]? = none := List.getElem?_eq_none (by rw [List.length_range]; exact hk)
    have h2 : (blockOf content)[k]? = none := List.getElem?_eq_none (by rw [blockOf_length]; exact hk)
    rw [h1, h2]
    rfl

/-- A byte of a lower block lies below a higher block. -/
theorem block_below {k i n x : Nat} (hx : x < n) (h : k < i) : k * n + x < i * n := by
  have : (k + 1) * n ≤ i * n := Nat.mul_le_mul_right _ h
  rw [Nat.add_mul, Nat.one_mul] at this
  omega

/-- A byte of a higher block lies past a lower block. -/
theorem block_above {k i n x : Nat} (h : i < k) : i * n + n ≤ k * n + x := by
  have : (i + 1) * n ≤ k * n := Nat.mul_le_mul_right _ h
  rw [Nat.add_mul, Nat.one_mul] at this
  omega

/-- Another block holds what it held. -/
theorem Store.content_writeBlock_other {st : Store} (h : Memory.wf st.memory) (i : BlockIndex) (content : Bytes) {k : Nat}
    (hk : k ≠ i.val) : (st.writeBlock i content).content k = st.content k := by
  unfold Store.content
  refine List.map_congr_left ?_
  intro x hx
  have hx : x < Config.blockBytes := List.mem_range.mp hx
  have key : Memory.read (st.writeBlock i content).memory (k * Config.blockBytes + x)
      = Memory.read st.memory (k * Config.blockBytes + x) := by
    refine Memory.read_write_of_outside h (block_inside i content) ?_
    rw [blockOf_length]
    exact (Nat.lt_or_gt_of_ne hk).imp (block_below hx) block_above
  unfold Store.byteAt
  rw [key]
  rfl

/-- A written block is sound, outside the start-up clear. -/
theorem Store.sound_writeBlock {st : Store} (hc : st.clear = none) (i : BlockIndex) (content : Bytes) :
    (st.writeBlock i content).sound i.val = true := by
  simp [Store.sound, Store.writeBlock, hc, List.any_filter]

end Sys2Proof.Machine
end

