-- ==== Sys2Proof/Laws/Recon.lean ====
section
/-! SUPPORT. What RU's and VE's work on a job can change: RU changes its own state, and at JC what a first fault changes; VE changes
its own state, and RU's when it hands its task over. -/

namespace Sys2Proof.Machine

/-- All that RU's work on a block can change of a job. -/
def Job.WorkedFrom (j j' : Job) : Prop :=
  ∃ unit phase faultRecord decoderQuiet signals,
    j' = { j with unit := unit, phase := phase, faultRecord := faultRecord, decoderQuiet := decoderQuiet, signals := signals }

theorem Job.WorkedFrom.refl (j : Job) : j.WorkedFrom j := ⟨j.unit, j.phase, j.faultRecord, j.decoderQuiet, j.signals, rfl⟩

theorem Job.WorkedFrom.trans {a b c : Job} (h : a.WorkedFrom b) (g : b.WorkedFrom c) : a.WorkedFrom c := by
  obtain ⟨_, _, _, _, _, rfl⟩ := h
  obtain ⟨u, p, f, q, s, rfl⟩ := g
  exact ⟨u, p, f, q, s, rfl⟩

/-- A change of RU's own state. -/
theorem Job.worked_mapUnit (f : ReconUnit → ReconUnit) (j : Job) : j.WorkedFrom (j.mapUnit f) :=
  ⟨_, j.phase, j.faultRecord, j.decoderQuiet, j.signals, rfl⟩

/-- A fault report changes no more than RU can. -/
theorem Job.worked_reportFault (r : FaultRecord) (j : Job) : j.WorkedFrom (j.reportFault r) := by
  unfold Job.reportFault
  split
  all_goals first
    | exact Job.WorkedFrom.refl j
    | exact ⟨j.unit, _, _, _, _, rfl⟩

/-- A reconstruction fault. -/
theorem Job.worked_unitFault (code : FaultCode) (n : Option Word16) (b : Nat) (j : Job) :
    j.WorkedFrom (j.unitFault code n b) :=
  (Job.worked_mapUnit _ j).trans (Job.worked_reportFault _ _)

/-- Starting a block of the current item. -/
theorem Job.worked_startItemBlock (c : CurrentItem) (j : Job) : j.WorkedFrom (j.startItemBlock c) := by
  unfold Job.startItemBlock
  split
  · split
    · exact Job.worked_mapUnit _ j
    · exact Job.worked_unitFault _ _ _ j
  · exact Job.worked_mapUnit _ j
  · exact Job.worked_mapUnit _ j
  · exact Job.WorkedFrom.refl j
  · exact Job.WorkedFrom.refl j

/-- Taking an item as the current one. -/
theorem Job.worked_holdItem (a : Activity) (c : CurrentItem) (j : Job) : j.WorkedFrom (j.holdItem a c) :=
  (Job.worked_mapUnit _ j).trans (Job.worked_startItemBlock _ _)

/-- Going on to the next block. -/
theorem Job.worked_nextBlock (c : CurrentItem) (j : Job) : j.WorkedFrom (j.nextBlock c) := by
  unfold Job.nextBlock
  refine (Job.worked_mapUnit (fun u => { u with item := some { c with next := c.next + 1 }, block := none }) j).trans ?_
  dsimp only
  split
  · exact Job.worked_startItemBlock _ _
  · exact Job.worked_mapUnit _ _
  · exact Job.worked_mapUnit _ _

/-- The completion of RU's read. -/
theorem Job.worked_blockRead (k : BlockInHand) (data : Option Bytes) (j : Job) : j.WorkedFrom (j.blockRead k data) := by
  unfold Job.blockRead
  split
  · exact Job.worked_unitFault _ _ _ j
  · exact Job.worked_mapUnit _ j

/-- All that VE's events can change of a job, besides what CT and JC take: its own state, and RU's at a hand-off. -/
def Job.VerifiedFrom (j j' : Job) : Prop := ∃ verifier unit, j' = { j with verifier := verifier, unit := unit }

theorem Job.VerifiedFrom.refl (j : Job) : j.VerifiedFrom j := ⟨j.verifier, j.unit, rfl⟩

theorem Job.VerifiedFrom.trans {a b c : Job} (h : a.VerifiedFrom b) (g : b.VerifiedFrom c) : a.VerifiedFrom c := by
  obtain ⟨_, _, rfl⟩ := h
  obtain ⟨v, u, rfl⟩ := g
  exact ⟨v, u, rfl⟩

/-- A change of VE's own state. -/
theorem Job.verified_mapVerifier (f : Verifier → Verifier) (j : Job) : j.VerifiedFrom (j.mapVerifier f) := ⟨_, j.unit, rfl⟩

/-- A hand-off. -/
theorem Job.verified_handOff (j : Job) : j.VerifiedFrom j.handOff := by
  unfold Job.handOff
  split
  · split
    · exact ⟨_, _, rfl⟩
    · exact Job.VerifiedFrom.refl j
  · exact Job.VerifiedFrom.refl j

/-- The next task. -/
theorem Job.verified_beginTask (o : Bool) (j : Job) : j.VerifiedFrom (j.beginTask o) := Job.verified_mapVerifier _ j

/-- A write completion at VE. -/
theorem Job.verified_cancelTasks (b : Nat) (o : Bool) (j : Job) : j.VerifiedFrom (j.cancelTasks b o) :=
  ((Job.verified_mapVerifier _ j).trans (Job.verified_handOff _)).trans (Job.verified_beginTask _ _)

/-- A task leaves the queue. -/
theorem Job.verified_endTask (j : Job) : j.VerifiedFrom j.endTask :=
  ((Job.verified_mapVerifier _ j).trans (Job.verified_handOff _)).trans (Job.verified_beginTask _ _)

/-- The monitor's value at a write completion: a full period in a run, but for a STOPPED one (R119). -/
theorem Job.restartMonitor_eq (j : Job) :
    j.restartMonitor = { j with unit := { j.unit with monitor :=
      if j.phase.inRun = true ∧ j.unit.monitor ≠ .stopped then .running (j.descriptor.progressPeriod * 100)
      else j.unit.monitor } } := by
  unfold Job.restartMonitor
  by_cases h : j.phase.inRun = true ∧ j.unit.monitor ≠ .stopped
  · rw [if_pos h, if_pos (by simp [h.1, h.2])]
    rfl
  · rw [if_neg h, if_neg (by simpa using h)]

/-- With no digest task held and RU not in VERIFY_WAIT, a write cancels nothing. -/
theorem Job.cancelTasks_nothing {j : Job} (h : j.verifier.tasks = []) (hw : j.unit.activity ≠ .verifyWait) (b : Nat) (o : Bool) :
    j.cancelTasks b o = j := by
  have hp : j.verifier.progressCovers b = false := by simp [Verifier.progressCovers, h]
  have hc : j.mapVerifier (Verifier.cancel b o) = j := by
    rcases j with ⟨_, _, _, _, _, _, _, _, _, _, _, _, _, _, _, _, v⟩
    rcases v with ⟨t, _, _, _, _⟩
    simp only at h hp
    subst h
    simp [Job.mapVerifier, Verifier.cancel, hp]
  have hh : j.handOff = j := by
    unfold Job.handOff
    split
    · exact absurd ‹_› hw
    · rfl
  unfold Job.cancelTasks
  rw [hc, hh]
  simp [Job.beginTask, Job.mapVerifier, Verifier.beginTask, h]

/-! ### The ABORT stops -/

/-- The job at an ABORT: what R18 and R148 change, and nothing else. -/
theorem Job.beginAbort_eq (j : Job) : j.beginAbort =
    { j with
      phase := .aborting
      faultRecord := none
      signals := { j.signals with decoderStop := true, unitStop := true, verifierStop := true, scanStop := true }
      window := { j.window with gapTimer := .idle }
      unit := { j.unit with monitor := .stopped } } := by
  simp [Job.beginAbort, Job.settleTimers, Job.settleGapTimer, Job.settleMonitor, JobPhase.inRun]

/-- What the stops taken in ABORT's own event can change. -/
theorem Job.stopAtOnce_spec (n : Nat) (ru ve : Bool) (j : Job) :
    ∃ signals decoder unit unitClear verifier verifierClear scan,
      j.stopAtOnce n ru ve = { j with
        signals := signals, decoder := decoder, unit := unit, unitClear := unitClear, verifier := verifier
        verifierClear := verifierClear, tracker := { j.tracker with scan := scan } } := by
  unfold Job.stopAtOnce Job.abortDecoder Job.stopUnit Job.stopVerifier Job.stopScan Job.unitStopped
  cases Config.decoderStopsAtOnce n <;> cases Config.unitStopsAtOnce n <;> cases Config.verifierStopsAtOnce n <;>
    cases Config.scanStopsAtOnce n <;> cases ru <;> exact ⟨_, _, _, _, _, _, _, rfl⟩

/-! ### Edits (R108) -/

/-- An edit that lies in the block, with its data in the ring: it replaces its own bytes and keeps the others. -/
theorem applyEdit_spec {ring : Ring} {content : Bytes} {e : Edit} (h : e.offset + e.length ≤ content.length)
    (hl : (ring.slice e.place e.length).length = e.length) :
    (applyEdit ring content e).length = content.length ∧
      ∀ i, (applyEdit ring content e)[i]? =
        if e.offset ≤ i ∧ i < e.offset + e.length then (ring.slice e.place e.length)[i - e.offset]? else content[i]? := by
  have hm : min e.offset content.length = e.offset := by omega
  unfold applyEdit
  refine ⟨by simp [hl]; omega, fun i => ?_⟩
  by_cases h1 : i < e.offset
  · rw [List.append_assoc, List.getElem?_append_left (by simp; omega), List.getElem?_take, if_pos h1, if_neg (by omega)]
  · by_cases h2 : i < e.offset + e.length
    · rw [List.getElem?_append_left (by simp [hl]; omega), List.getElem?_append_right (by simp; omega), List.length_take, hm,
        if_pos ⟨by omega, h2⟩]
    · rw [List.getElem?_append_right (by simp [hl]; omega), List.getElem?_drop, if_neg (by omega), List.length_append,
        List.length_take, hm, hl]
      congr 1
      omega

end Sys2Proof.Machine
end

