-- ==== Sys2Proof/Tests/Slice0.lean ====
section
/-! SUPPORT. Tests: the well-formedness checks, the spec's worked values, one or two small steps of every command, and a state that
meets the hypotheses of each statement. -/

namespace Sys2Proof.Tests

open Sys2Proof Sys2Proof.Machine

set_option Elab.async false

/-! ### Small states -/

/-- The part after the start-up clear, with no job. -/
def up : State := { State.reset with store := { State.reset.store with clear := none } }

/-- A descriptor: base blocks 0 to 3, target blocks 8 to 11, band width 2, window from 0100h, gap hold 5 ms, period 100 ms. -/
def desc : Descriptor := ⟨7, 0, 4, 8, 4, 2, 0x0100, 5, 1, .carry, 0xEE⟩

/-- The body of LOAD_JOB for that descriptor. -/
def descBody : Bytes := [7, 0, 0, 0, 4, 0, 8, 0, 4, 0, 2, 0, 1, 5, 1, 0, 0xEE]

/-- A new job. -/
def fresh : Job := Job.start desc

/-- The part with a job. -/
def withJob (j : Job) : State := { up with job := some j }

/-- A new job in a job state. -/
def inPhase (p : JobPhase) : Job := { fresh with phase := p }

/-- The state after a command; the same state if it stops. -/
def after (c : Instr) (s : State) : State :=
  match exec c s with
  | .next t => t
  | .fault _ => s
  | .refused _ => s

/-- The last reply made. -/
def lastReply (s : State) : Option Reply := s.link.replies.getLast?

/-- The status of the last reply. -/
def lastStatus (s : State) : Option ReplyStatus := (lastReply s).map (fun r => r.status)

/-- The job state. -/
def phaseOf (s : State) : Option JobPhase := s.job.map (fun j => j.phase)

/-- The notices held. -/
def posted (s : State) : List Notice := s.link.notices.map (fun n => n.notice)

/-! ### Well-formedness: a term that each check refuses, and terms that pass -/

theorem test_wf_body_too_long : WellFormed (.parcel 1 (List.replicate 521 0)) = false := by decide +kernel
theorem test_wf_body_longest : WellFormed (.parcel 1 (List.replicate 520 0)) = true := by decide +kernel
theorem test_wf_unknown_body_too_long : WellFormed (.unknownRequest 1 0x99 (List.replicate 521 0)) = false := by decide +kernel
theorem test_wf_unknown_code_known : WellFormed (.unknownRequest 1 0x20 []) = false := by decide +kernel
theorem test_wf_unknown : WellFormed (.unknownRequest 1 0x99 []) = true := by decide +kernel
theorem test_wf_bad_frame_length_differs : WellFormed (.badFrame [1, 0, 1, 0, 0, 0, 0]) = false := by decide +kernel
theorem test_wf_bad_frame_too_long : WellFormed (.badFrame ([0x09, 0x02] ++ List.replicate 526 0)) = false := by decide +kernel
theorem test_wf_bad_frame_is_good :
    WellFormed (.badFrame ([0, 0, 1, 7, 0x01] ++ le16 (crc16 [0, 0, 1, 7, 0x01]).toNat)) = false := by decide +kernel
theorem test_wf_bad_frame_crc : WellFormed (.badFrame [0, 0, 1, 7, 0x01, 0, 0]) = true := by decide +kernel
theorem test_wf_bad_frame_kind :
    WellFormed (.badFrame ([0, 0, 2, 7, 0x01] ++ le16 (crc16 [0, 0, 2, 7, 0x01]).toNat)) = true := by decide +kernel
theorem test_wf_damaged_no_block : WellFormed (.blockDamaged 4096 (List.replicate 512 0)) = false := by decide +kernel
theorem test_wf_damaged_short : WellFormed (.blockDamaged 0 [1]) = false := by decide +kernel
theorem test_wf_damaged : WellFormed (.blockDamaged 4095 (List.replicate 512 1)) = true := by decide +kernel

/-! ### Values the spec works out -/

/-- The check value of the CRC-16 (R169): the bytes are "123456789". -/
theorem test_crc16_check : crc16 [0x31, 0x32, 0x33, 0x34, 0x35, 0x36, 0x37, 0x38, 0x39] = 0x29B1 := by decide +kernel

/-- The check value of the CRC-32 (R58). -/
theorem test_crc32_check : crc32 [0x31, 0x32, 0x33, 0x34, 0x35, 0x36, 0x37, 0x38, 0x39] = 0xCBF43926 := by decide +kernel

/-- The escape states of section 3.9, first row. -/
theorem test_escape_3_9 :
    Escape.clear.step 0xE7 = .deliver .seenE7 [] ∧ Escape.seenE7.step 0x1D = .deliver .seenE71D [] ∧
      Escape.seenE71D.step 0x00 = .deliver .clear [0xE7, 0x1D] ∧ Escape.clear.step 0x6B = .deliver .clear [0x6B] ∧
      Escape.seenE7.step 0xE7 = .deliver .seenE7 [0xE7] := by decide +kernel

/-- The window of section 11.8: B at 0100h and two parcels held. -/
def window118 : Window :=
  ⟨0x0100, (List.replicate 16 none).set 4 (some ⟨0x0104, [1]⟩) |>.set 5 (some ⟨0x0105, [1]⟩), 0, [], .idle⟩

/-- Section 11.8: parcel 0102h is TAKEN, and the reply body is 00h 00h 01h 0Dh in a frame of 12 bytes. -/
theorem test_parcel_11_8 :
    (lastReply (after (.parcel 7 [0x02, 0x01, 0x51, 0x00, 0xFF]) (withJob { fresh with window := window118 }))).map
        (fun r => (r.status.code, r.body.bytes, (TxFrame.reply r).bytes.length))
      = some (0x00, [0x00, 0x00, 0x01, 0x0D], 12) := by decide +kernel

/-- Section 2.9: the removal of block 104 from (100, 10) at capacity keeps (100, 4) and names (105, 5). -/
theorem test_split_2_9 :
    let low := (List.range 9).map (fun i => (⟨2 * i, 1⟩ : BlockRange))
    let high := (List.range 22).map (fun i => (⟨200 + 2 * i, 1⟩ : BlockRange))
    let a := Tracker.removeBlock 104 ⟨[], 0, low ++ [⟨100, 10⟩] ++ high, false, none⟩
    a.tracker.repairs = low ++ [⟨100, 4⟩] ++ high ∧ a.tracker.overflow = true ∧ a.overflowed = some ⟨105, 5⟩ := by decide +kernel

/-- Section 2.8: (8, 4) added to a list with (4, 4) gives (4, 8), and (12, 4) then gives (4, 12). -/
theorem test_merge_2_8 :
    mergeRange ⟨8, 4⟩ [⟨4, 4⟩] = [⟨4, 8⟩] ∧ mergeRange ⟨12, 4⟩ [⟨4, 8⟩] = [⟨4, 12⟩] := by decide +kernel

/-- Section 10.9: ACK_NOTICES 5 removes three notices and queues NOTICE_OVERFLOW as number 11. -/
theorem test_ack_10_9 :
    let held := (List.range 8).map (fun i => (⟨.aborted 7, BitVec.ofNat 8 (i + 3), true⟩ : HeldNotice))
    let s : State := { up with link := { up.link with notices := held, nextNotice := 11, dropped := 2 } }
    let t := after (.ackNotices 1 [5]) s
    (lastReply t).map (fun r => r.body) = some (.acked 3 6) ∧ t.link.notices.getLast? = some ⟨.noticeOverflow 2, 11, false⟩ ∧
      t.link.nextNotice = 12 ∧ t.link.dropped = 0 := by decide +kernel

/-- Section 10.8: when the earlier reply ends at reply run 4, the waiting notice goes first. -/
theorem test_transmit_10_8 :
    let l : Link := { up.link with
      sending := some (.reply ⟨9, .ok, .empty⟩)
      replies := [⟨9, .ok, .empty⟩, ⟨1, .ok, .empty⟩]
      table := [⟨9, 1⟩, ⟨1, 2⟩]
      replyRun := 3
      notices := [⟨.aborted 7, 14, false⟩] }
    (after .txFrameEnd { up with link := l }).link.sending = some (.notice (.aborted 7) 14) := by decide +kernel

/-! ### The commands, one or two small steps each -/

theorem test_powerOn : (after (.powerOn true false) (withJob fresh)).job = none ∧
    (after (.powerOn true false) up).link.rate = .mbit6 := by decide +kernel
theorem test_pinReset : posted (after (.pinReset false true) (withJob fresh)) = [.ready .pin] ∧
    (after (.pinReset false true) (withJob fresh)).job = none := by decide +kernel
theorem test_clearWriteComplete : (after .clearWriteComplete State.reset).store.clear = some ⟨1, 1, false, 0⟩ := by decide +kernel
theorem test_clear_ends :
    posted (after .clearWriteComplete { up with store := { up.store with clear := some ⟨4095, 4095, false, 0⟩ } })
      = [.ready .powerOn] := by decide +kernel
theorem test_frameLengthErr : (after .frameLengthErr up).link.errors.length = 1 := by decide +kernel
theorem test_frameGapExpiry :
    (after .frameGapExpiry { up with link := { up.link with receiver := .assembling [1] } }).link.errors.gap = 1 ∧
      (after .frameGapExpiry up).link.errors.gap = 0 := by decide +kernel
theorem test_badFrame : (after (.badFrame [0, 0, 1, 7, 0x01, 0, 0]) up).link.errors.crc = 1 := by decide +kernel
theorem test_unknownRequest : lastStatus (after (.unknownRequest 3 0x99 []) up) = some .unknownRequest := by decide +kernel
theorem test_identify : (lastReply (after (.identify 3 []) up)).map (fun r => r.body.bytes)
    = some [0x5A, 0x4E, 0x40, 0x71, 0x02, 0x00, 0x10, 0x00, 0x02, 0x10, 0x10, 0x20] := by decide +kernel
theorem test_identify_not_ready : lastStatus (after (.identify 3 []) State.reset) = some .notReady := by decide +kernel
theorem test_status_length : (lastReply (after (.status 3 []) (withJob fresh))).map (fun r => r.body.bytes.length) = some 92 := by
  decide +kernel
theorem test_loadJob : (after (.loadJob 3 descBody) up).job = some fresh := by decide +kernel
theorem test_loadJob_wrong_state : lastStatus (after (.loadJob 3 descBody) (withJob fresh)) = some .wrongState := by decide +kernel
theorem test_run : phaseOf (after (.run 3 [1, 5, 0]) (withJob fresh)) = some .running := by decide +kernel
theorem test_run_bad_count : (lastReply (after (.run 3 [1, 0, 0]) (withJob fresh))).map (fun r => r.body) = some (.badField 2) := by
  decide +kernel
theorem test_pause : phaseOf (after (.pause 3 []) (withJob { fresh with phase := .running, queue := [.abandon] }))
    = some .stopping := by decide +kernel
theorem test_recover : phaseOf (after (.recover 3 []) (withJob (inPhase .faulted))) = some .ready := by decide +kernel
/-- The job right after an ABORT in RUNNING, with each of the four stops taken at once or not. -/
def stopsTaken (sd ru ve ct outstanding : Bool) : Job :=
  let j := (inPhase .running).beginAbort
  let j := if sd then j.abortDecoder else j
  let j := if ru then j.stopUnit outstanding else j
  let j := if ve then j.stopVerifier false else j
  if ct then j.stopScan else j

/-- The part with a job in RUNNING, and RU's read in flight when the flag is set. -/
def runningState (outstanding : Bool) : State :=
  { withJob (inPhase .running) with
    store := { up.store with inFlight := if outstanding then some ⟨.ru, .read (storeIndex 0 1)⟩ else none } }

/-- What an ABORT comes to when these stops are taken in its own event. -/
def abortedWith (sd ru ve ct outstanding : Bool) : State :=
  (({ (runningState outstanding).drawn with
    link := up.link.enter 3 0x14, job := some (stopsTaken sd ru ve ct outstanding) }.reply 3 .started .empty).teardown).transmit

theorem test_abort_stops (outstanding : Bool) : after (.abort 3 []) (runningState outstanding)
    = abortedWith (Config.decoderStopsAtOnce 1) (Config.unitStopsAtOnce 1) (Config.verifierStopsAtOnce 1)
        (Config.scanStopsAtOnce 1) outstanding := by
  cases outstanding <;> rfl

/-- RU's read is in flight: whichever stops are taken, the job is ABORTING and STARTED is the reply. -/
theorem test_abort : lastStatus (after (.abort 3 []) (runningState true)) = some .started ∧
    phaseOf (after (.abort 3 []) (runningState true)) = some .aborting := by
  have h : ∀ sd ru ve ct : Bool, lastStatus (abortedWith sd ru ve ct true) = some .started ∧
      phaseOf (abortedWith sd ru ve ct true) = some .aborting := by decide +kernel
  rw [test_abort_stops]
  exact h _ _ _ _

/-- Nothing is in flight: the job is gone in ABORT's own event exactly if RU and VE both take their stops in it. -/
theorem test_abort_completes : ∀ sd ru ve ct : Bool,
    ((abortedWith sd ru ve ct false).job = none ↔ ru = true ∧ ve = true) ∧
      (posted (abortedWith sd ru ve ct false) = [.aborted 7] ↔ ru = true ∧ ve = true) := by decide +kernel
theorem test_parcel : ((after (.parcel 3 [0x00, 0x01, 9]) (withJob fresh)).job.map (fun j => j.window.heldCount)) = some 1 := by decide +kernel
theorem test_getMap : (lastReply (after (.getMap 3 [2, 0, 2, 0]) (withJob fresh))).map (fun r => r.body)
    = some (.map 2 2 0 [.empty, .empty]) := by decide +kernel
theorem test_getRepairs : (lastReply (after (.getRepairs 3 []) (withJob fresh))).map (fun r => r.body)
    = some (.repairs 0 false []) := by decide +kernel

/-- A job with F at 2: block 0 CARRIED and listed, block 1 WRITTEN. -/
def carried : Job := { fresh with tracker := ⟨[.carried, .written, .empty, .empty], 2, [⟨0, 1⟩], false, none⟩ }

theorem test_fill : (after (.fill 3 [0, 0, 2, 0, 1, 0xAA, 0]) (withJob carried)).store.inFlight.map (fun t => t.op)
    = some (.write (storeIndex 8 0) (uniformBlock 0xAA)) := by decide +kernel
theorem test_fill_nothing : posted (after (.fill 3 [1, 0, 1, 0, 1, 0xAA, 0]) (withJob carried)) = [.fillDone 7 0] := by decide +kernel
theorem test_waive : ((after (.waive 3 [0, 0, 2, 0]) (withJob carried)).job.map (fun j => (j.tracker.map, j.tracker.repairs)))
    = some ([.waived, .written, .empty, .empty], []) := by decide +kernel
theorem test_repairScan : phaseOf (after (.repairScan 3 []) (withJob carried)) = some .servicing := by decide +kernel
theorem test_runCountBytes : runCountBytes 3 = [3, 0] ∧ runCountBytes 65535 = [255, 255] ∧ runCountBytes 70000 = [255, 255] := by
  decide +kernel
theorem test_escape_stuffed : stuffed [0xE7, 0x1D, 0x6B] = [0xE7, 0x1D, 0x00, 0x6B] ∧
    Escape.clear.feed [0xE7, 0x1D, 0x00, 0x6B] = some (.clear, [0xE7, 0x1D, 0x6B]) := by decide +kernel
theorem test_closeImage_unmet : (lastReply (after (.closeImage 3 []) (withJob carried))).map (fun r => r.body)
    = some (.unmet 1 0 .empty) := by decide +kernel

/-- A job ready to be closed. -/
def complete : Job := { fresh with
  endRecord := ⟨true, some 0x12345678⟩
  tracker := ⟨[.written, .verified, .waived, .written], 4, [], false, none⟩ }

theorem test_closeImage : phaseOf (after (.closeImage 3 []) (withJob complete)) = some .closing ∧
    (after (.closeImage 3 []) (withJob complete)).store.inFlight = some ⟨.ve, .read (storeIndex 8 0)⟩ := by decide +kernel
theorem test_readBlock : (after (.readBlock 3 [0xFF, 0x0F]) up).store.inFlight = some ⟨.lp, .read (storeIndex 0 4095)⟩ ∧
    lastStatus (after (.readBlock 3 [0x00, 0x10]) up) = some .badParam := by decide +kernel
theorem test_writeBlock_locked :
    lastStatus (after (.writeBlock 3 ([8, 0] ++ List.replicate 512 1)) (withJob fresh)) = some .locked := by decide +kernel
theorem test_ackNotices_none : lastStatus (after (.ackNotices 3 [0]) up) = some .badParam := by decide +kernel
theorem test_replayNotices : (lastReply (after (.replayNotices 3 []) (up.post (.aborted 7)))).map (fun r => r.body)
    = some (.replayed 1) := by decide +kernel
theorem test_txFrameEnd :
    let s := after (.identify 3 []) up
    s.link.sending.isSome = true ∧ (after .txFrameEnd s).link.table = [] ∧ (after .txFrameEnd s).link.replyRun = 1 := by decide +kernel

/-- A running job with a parcel at B. -/
def fed (bytes : Bytes) : Job :=
  { fresh with
    phase := .running
    window := fresh.window.store ⟨0x0100, bytes⟩
    decoder := { fresh.decoder with running := true, limit := some .continuous } }

theorem test_sdTakeByte : ((after .sdTakeByte (withJob (fed [0xE7, 1]))).job.map (fun j => (j.decoder.escape, j.window.readOffset)))
    = some (.seenE7, 1) := by decide +kernel
theorem test_sdTakeByte_last : ((after .sdTakeByte (withJob (fed [0x55]))).job.map (fun j => (j.window.base, j.window.history)))
    = some (0x0101, [.consumed]) := by decide +kernel

/-- A job in a state with one signal given. -/
def signalled (p : JobPhase) (f : Signals → Signals) : State := withJob { inPhase p with signals := f fresh.signals }

theorem test_sdSuspend :
    phaseOf (after .sdSuspend (withJob { (fed []) with
      phase := .stopping, stopReason := some .pause, signals := { fresh.signals with suspend := true } })) = some .ready := by decide +kernel
theorem test_sdHalt : ((after .sdHalt (signalled .quiescing (fun g => { g with halt := true }))).job.map (fun j => j.decoderQuiet))
    = some true := by decide +kernel
theorem test_sdAbortStop :
    ((after .sdAbortStop (signalled .aborting (fun g => { g with decoderStop := true }))).job.map (fun j => j.signals.decoderStop))
      = some false := by decide +kernel

/-- A running job with a gap of two before the parcel held. -/
def gapped : Job :=
  { (fed []) with window := { (fresh.window.store ⟨0x0102, [9]⟩) with gapTimer := .running 5 } }

theorem test_gapHoldExpiry : posted (after .gapHoldExpiry (withJob gapped)) = [.gap 7 0x0100 2 0x0102] ∧
    ((after .gapHoldExpiry (withJob gapped)).job.map (fun j => (j.window.base, j.window.history))) = some (0x0102, [.lost, .lost]) := by
  decide +kernel

/-- A running job with items queued. -/
def queued (items : List Item) : Job := { (inPhase .running) with queue := items }

theorem test_ruTakeItem_section : ((after .ruTakeItem (withJob (queued [.sectionBegin 0]))).job.map (fun j => j.unit.displacement))
    = some (some 0) := by decide +kernel
theorem test_ruTakeItem_block :
    (after .ruTakeItem (withJob (queued [.block ⟨1, 0, 1, .copyNew 1, []⟩]))).store.inFlight
      = some ⟨.ru, .read (storeIndex 0 1)⟩ := by decide +kernel

/-- RU has a copy of target block 0 in hand, read from base block 1. -/
def reading : State :=
  let s := after .ruTakeItem (withJob (queued [.block ⟨1, 0, 1, .copyNew 1, []⟩]))
  { s with store := { s.store with memory := [(512, 0x77)] } }

/-- RU has its write of target block 0 in flight. -/
def writing : State := { reading with
  store := { reading.store with inFlight := some ⟨.ru, .write (storeIndex 8 0) [0x77]⟩ }
  job := reading.job.map (fun j => { j with unit := { j.unit with block := some ⟨0, .writing, .ownCopy 1⟩, waiting := none } }) }

theorem test_ruReadComplete : ((after .ruReadComplete reading).store.inFlight.map (fun t => (t.requester, t.op.index, t.op.isWrite)))
    = some (.ru, storeIndex 8 0, true) := by decide +kernel
theorem test_ruWriteComplete : ((after .ruWriteComplete writing).job.map (fun j =>
      (j.tracker.map, j.tracker.frontier, j.counters.blocksWritten, j.unit.activity, j.unit.displacement)))
    = some ([.written, .empty, .empty, .empty], 1, 1, .idle, some 1) := by decide +kernel
theorem test_ruWriteComplete_memory : (after .ruWriteComplete writing).store.memory = [(512, 0x77), (4096, 0x77)] := by decide +kernel
theorem test_ruQuiescingNotice :
    ((after .ruQuiescingNotice (signalled .quiescing (fun g => { g with quiescing := true }))).job.map (fun j => j.unit.order))
      = some .quiesce := by decide +kernel
theorem test_ruAbortStop :
    ((after .ruAbortStop (signalled .aborting (fun g => { g with unitStop := true }))).job.map (fun j => j.unitClear)) = some true := by
  decide +kernel
theorem test_veAbortStop_ends :
    let j : Job := { inPhase .aborting with unitClear := true, signals := { fresh.signals with verifierStop := true } }
    (after .veAbortStop (withJob j)).job = none ∧ posted (after .veAbortStop (withJob j)) = [.aborted 7] := by decide +kernel
theorem test_scanAbortStop :
    ((after .scanAbortStop (withJob { inPhase .aborting with
      signals := { fresh.signals with scanStop := true }
      tracker := { fresh.tracker with scan := some ⟨0, [], false⟩ } })).job.map (fun j => j.tracker.scan)) = some none := by decide +kernel

/-- A job with a digest task of one block in progress, its read in flight: the block is damaged when the flag is set. -/
def verifying (damaged : Bool) : State :=
  let s := withJob { carried with
    verifier := ⟨[⟨5, 1, 1, 0⟩], some ⟨1, crc32Init⟩, none, none, false⟩ }
  { s with store := { s.store with
    inFlight := some ⟨.ve, .read (storeIndex 8 1)⟩
    damaged := if damaged then [⟨9, 0⟩] else [] } }

theorem test_veReadComplete_check : posted (after .veReadComplete (verifying true)) = [.mismatch 7 5 1 1 (some 1)] ∧
    ((after .veReadComplete (verifying true)).job.map (fun j => j.tracker.repairs)) = some [⟨0, 2⟩] := by decide +kernel

/-- A host write in flight and a host read behind it. -/
def transferring : State := { up with
  store := { up.store with inFlight := some ⟨.lp, .write (storeIndex 0 20) [0x42]⟩ }
  link := { up.link with
    table := [⟨1, 0x41⟩, ⟨2, 0x40⟩]
    transfers := [⟨1, .write (storeIndex 0 20) [0x42]⟩, ⟨2, .read (storeIndex 0 20)⟩] } }

theorem test_hostTransferComplete : (after .hostTransferComplete transferring).store.memory = [(10240, 0x42)] ∧
    (after .hostTransferComplete transferring).store.inFlight = some ⟨.lp, .read (storeIndex 0 20)⟩ := by decide +kernel

/-- A scan of the job with F at 2, at a position. -/
def scanning (position : Nat) : Job := { carried with
  phase := .servicing
  tracker := { carried.tracker with scan := some ⟨position, [⟨0, 1⟩], false⟩ } }

theorem test_scanVisit_first :
    ((after .scanVisit (withJob { (scanning 0) with
      tracker := { carried.tracker with scan := some ⟨0, [], false⟩ } })).job.map (fun j => j.tracker.scan))
      = some (some ⟨1, [⟨0, 1⟩], false⟩) := by decide +kernel
theorem test_scanVisit_last : posted (after .scanVisit (withJob (scanning 1))) = [.scanDone 7 1 false] ∧
    phaseOf (after .scanVisit (withJob (scanning 1))) = some .ready := by decide +kernel
theorem test_scanVisit_aborting :
    ((after .scanVisit (withJob { (scanning 1) with phase := .aborting })).job.map (fun j => (j.tracker.repairs, j.tracker.scan)))
      = some ([⟨0, 1⟩], some ⟨1, [⟨0, 1⟩], false⟩) := by decide +kernel
theorem test_progressMonitorExpiry :
    let j : Job := { inPhase .running with unit := { fresh.unit with monitor := .running 100 } }
    posted (after .progressMonitorExpiry (withJob j)) = [.stall 7 .starved 0 0x0100 0 0] := by decide +kernel
theorem test_rxdByteReceived : (after (.rxdByteReceived 0xB5) up).link.receiver = .assembling [] ∧
    (after (.rxdByteReceived 0x41) up).link.receiver = .hunting := by decide +kernel
theorem test_rxd_too_long :
    (after (.rxdByteReceived 0x02) { up with link := { up.link with receiver := .assembling [0x09] } }).link.errors.length = 1 := by
  decide +kernel
theorem test_blockDamaged : (after (.blockDamaged 20 [1]) up).store.sound 20 = false ∧
    (after (.blockDamaged 20 [1]) up).store.sound 21 = true := by decide +kernel
theorem test_blockDamaged_no_block : exec (.blockDamaged 4096 []) up = .fault (.noSuchBlock 4096) := by rfl
theorem test_queue : step { up with pending := [.frameLengthErr, .sdTakeByte] } = exec .frameLengthErr { up with pending := [.sdTakeByte] } := by
  rfl
theorem test_decode_none : decodeTableWord 8 0 = none := by rfl

/-! ### States that meet the hypotheses of the statements, one clause after another -/

theorem test_hyp_QueueIsTakenByStepOnly : exec .sdTakeByte up = .next up ∧ up.pending = [] := ⟨rfl, rfl⟩

/-- The request table full, tag 1 outstanding. -/
def fullTable : State := { up with link := { up.link with table := [⟨1, 1⟩, ⟨2, 1⟩, ⟨3, 1⟩, ⟨4, 1⟩] } }

theorem test_hyp_RequestTableDiscards :
    (Instr.identify 1 []).request? = some (1, []) ∧ fullTable.link.hasTag 1 = true ∧ fullTable.link.hasTag 5 = false ∧
      Config.tableEntries ≤ fullTable.link.table.length := by decide +kernel
theorem test_hyp_EarlyRefusalsAnswered :
    State.reset.store.clear.isSome = true ∧ State.reset.link.hasTag 1 = false ∧ (0x99 : Byte) ∉ requestCodes ∧
      requestCodeOf (.identify 1 [0]) = some 0x01 ∧ bodyLengthOk 0x01 [0] = false ∧ up.store.clear = none ∧
      up.link.table.length < Config.tableEntries := by decide +kernel
theorem test_hyp_JobStateTestOfR9 :
    up.Accepts 1 0x11 [0, 0, 0] ∧ jobRequestOf (.run 1 [0, 0, 0]) = some .readyOnly ∧
      jobTest .readyOnly (up.job.map (fun j => j.phase)) = some .noJob := by decide +kernel
theorem test_hyp_IdentifyAnswers : up.Accepts 1 0x01 [] := by decide +kernel
theorem test_hyp_StatusAnswersSnapshot : (withJob fresh).Accepts 1 0x02 [] := by decide +kernel
theorem test_hyp_LoadJobCreates : up.Accepts 1 0x10 descBody ∧ up.job = none ∧ readDescriptor descBody = .ok desc := by
  refine ⟨by decide +kernel, rfl, by rfl⟩
theorem test_hyp_LoadJobTestsDescriptor :
    let bad : Bytes := [7, 0, 0, 0x10, 4, 0, 8, 0, 4, 0, 2, 0, 1, 5, 1, 0, 0xEE]
    up.Accepts 1 0x10 bad ∧ readDescriptor bad = .error 2 := by
  refine ⟨by decide +kernel, by rfl⟩
theorem test_hyp_LoadJob_regions_touch :
    readDescriptor [7, 0, 0, 0, 4, 0, 4, 0, 4, 0, 2, 0, 1, 5, 1, 2, 0] = .ok ⟨7, 0, 4, 4, 4, 2, 0x100, 5, 1, .noFill, 0⟩ ∧
      readDescriptor [7, 0, 0, 0, 4, 0, 3, 0, 4, 0, 2, 0, 1, 5, 1, 2, 0] = .error 5 := ⟨by rfl, by rfl⟩
theorem test_hyp_RunStartsTheRun :
    (withJob fresh).Accepts 1 0x11 [1, 0xFF, 0x0F] ∧ fresh.phase = .ready ∧ fresh.window.gapTimer = .idle ∧
      fresh.decoder.waitingOutput = [] ∧ fresh.decoder.waitingBytes = [] := by decide +kernel
theorem test_hyp_RunStartsTheRun_limit :
    readLimit [1, 0xFF, 0x0F] = .ok (.blocks 4095) ∧ readLimit [2, 0, 1] = .error 2 ∧ readLimit [3, 1, 0] = .error 1 :=
  ⟨rfl, rfl, rfl⟩
theorem test_hyp_PauseAndRecover :
    (withJob (inPhase .running)).Accepts 1 0x12 [] ∧ (inPhase .running).phase = .running ∧ (inPhase .stopping).phase = .stopping ∧
      (withJob (inPhase .faulted)).Accepts 1 0x13 [] := by decide +kernel
theorem test_hyp_AbortBeginsTeardown :
    (withJob (inPhase .closing)).Accepts 1 0x14 [] ∧ (inPhase .closing).phase ≠ .aborting ∧ (runningState true).Accepts 1 0x14 [] ∧
      (stopsTaken true true true true true).unitClear = false ∧ (stopsTaken true true true true false).unitClear = true ∧
      (stopsTaken true true true true false).verifierClear = true ∧ up.store.outstanding .ru = false ∧
      ({ withJob fresh with link := { up.link with replyRun := 4 } } : State).Accepts 1 0x14 [] ∧
      up.link.sending = none ∧ up.link.notices = [] := by decide +kernel
theorem test_hyp_VerdictTableOfR61 :
    let w : Window := { fresh.window with history := [.consumed, .lost] }
    w.verdict 0x0100 = .taken ∧ w.verdict 0x010F = .taken ∧ w.verdict 0x0110 = .ahead ∧ w.verdict 0x80FF = .ahead ∧
      w.verdict 0x8100 = .stale ∧ w.verdict 0x00DF = .stale ∧ w.verdict 0x00E0 = .stale ∧ w.verdict 0x00FE = .late ∧
      w.verdict 0x00FF = .duplicate := by decide +kernel
theorem test_hyp_ParcelAnswered :
    (withJob fresh).Accepts 1 0x20 [0x00, 0x01, 9] ∧ jobTest .parcel (some fresh.phase) = none ∧
      fresh.window.verdict (parcelSequence [0x00, 0x01, 9]) = .taken ∧
      fresh.window.verdict (parcelSequence [0x10, 0x01, 9]) = .ahead := by decide +kernel
theorem test_hyp_GapExpirySkips :
    gapped.window.gapTimer ≠ .idle ∧ gapped.window.lowestHeld = some 2 ∧ gapped.decoder.faultMark = false ∧
      gapped.phase ≠ .aborting ∧ gapped.decoder.sectionOpen = false ∧
      ({ gapped.decoder with context := some ⟨1, 0, 2, false, none, true, false⟩ } : Decoder).sectionOpen = true := by decide +kernel
theorem test_hyp_SdTakesByte :
    (fed [1]).decoder.running = true ∧ (fed [1]).decoder.waitingOutput = [] ∧ (fed [1]).decoder.waitingBytes = [] ∧
      (fed [1]).window.held? (fed [1]).window.base = some ⟨0x0100, [1]⟩ ∧ ([1] : Bytes)[(fed [1]).window.readOffset]? = some 1 := by
  decide +kernel
theorem test_hyp_SdTakesByte_match :
    Escape.clear.step 1 = .deliver .clear [1] ∧ Escape.seenE7.step 2 = .deliver .clear [0xE7, 2] ∧
      Escape.seenE71D.step 1 = .violation ∧ fresh.decoder.position = .seeking ∧ fresh.decoder.position ≠ .markerExpected ∧
      ({ fresh.decoder with escape := .seenMarkerStart, position := .lead } : Decoder).position ≠ .seeking := by decide +kernel

/-- SD in a directive of a section that covers blocks 0 to 3, at a stage of it. -/
def inDirective (kind : DirectiveKind) (edits : Nat) (stage : DirectiveStage) : Decoder :=
  { (fed []).decoder with
    position := .directive
    context := some ⟨1, 0, 4, true, some 2, true, false⟩
    record := .directive ⟨kind, edits, 1, some 3, .copyKeep, 0, [], 0, stage⟩ }

/-- A ring that holds 4096 bytes. -/
def fullRing : Ring := ⟨0, List.replicate 4096 0⟩

theorem test_hyp_SdTakesByte_processed :
    (fed [1]).decoder.faultMark = false ∧ fresh.decoder.running = false ∧ (fed []).decoder.running = true ∧
      (inDirective .literal 0 (.literal 0 0)).parse 4 4 fullRing 9 = .ringFull ∧
      ({ (fed []).decoder with position := .markerExpected } : Decoder).parse 4 4 Ring.empty 9 = .fault .expectedMarker none none ∧
      (fed []).decoder.parse 4 4 Ring.empty 9 = .done (fed []).decoder Ring.empty [] := by decide +kernel

/-- A header and an end record at their last byte, a trailer at its last, and the sums and ranges that decide them: block 0, count 4, of
a target of 4 blocks in bands of 4 passes; count 5 does not. -/
theorem test_hyp_StreamGrammar_records :
    let at_ (p : SubPosition) (held : Bytes) : Decoder := { (fed []).decoder with position := p, record := .bytes held }
    (at_ .header [1, 0, 0, 0, 4, 1]).parse 4 4 Ring.empty 0xA9
        = .done { (fed []).decoder with position := .lead, record := .nothing, context := some ⟨1, 0, 4, true, none, true, false⟩ }
            Ring.empty [.sectionBegin 0] ∧
      (at_ .header [1, 0, 0, 0, 4, 1]).parse 4 4 Ring.empty 0xA8 = .fault .badHeader (some 1) none ∧
      (at_ .header [1, 0, 0, 0, 4, 2]).parse 4 4 Ring.empty 0xA8 = .fault .badHeader (some 1) none ∧
      (at_ .header [1, 0, 0, 0, 5, 1]).parse 4 4 Ring.empty 0xA8 = .fault .sectionRange (some 1) none ∧
      (at_ .header [1, 0, 0, 0, 0, 1]).parse 4 4 Ring.empty 0xAD = .fault .sectionRange (some 1) none ∧
      (at_ .endBody [4, 0, 1, 2, 3, 4]).parse 4 4 Ring.empty 0x94
        = .done { (fed []).decoder with position := .seeking, record := .nothing } Ring.empty [.imageEnd 0x04030201] ∧
      (at_ .endBody [5, 0, 1, 2, 3, 4]).parse 4 4 Ring.empty 0x93 = .fault .endMismatch none none ∧
      (at_ .endBody [5, 0, 1, 2, 3, 4]).parse 4 4 Ring.empty 0x94 = .fault .badHeader none none ∧
      ({ at_ .trailer [1, 2, 3] with context := some ⟨1, 0, 4, true, some 3, true, false⟩ } : Decoder).parse 4 4 Ring.empty 4
        = .done { (fed []).decoder with
            position := .markerExpected, record := .nothing, context := some ⟨1, 0, 4, true, some 3, true, true⟩ } Ring.empty
            [.sectionEnd 1 0 4 (some 0x04030201)] := by decide +kernel

/-- A directive at its lead byte, its increment byte, its operand and its edits, at the ends of their ranges. -/
theorem test_hyp_StreamGrammar_directive :
    let lead : Decoder := { (fed []).decoder with position := .lead }
    let faulty (o : ParseOutcome) : Option FaultCode := match o with
      | .fault code _ _ => some code
      | .ringFull => none
      | .done _ _ _ => none
    let got (kind : DirectiveKind) (edits : Nat) (stage : DirectiveStage) (b : Byte) : ParseOutcome :=
      (inDirective kind edits stage).parse 4 4 Ring.empty b
    faulty (lead.parse 4 4 Ring.empty 0xA0) = some .badDirective ∧ faulty (lead.parse 4 4 Ring.empty 0x61) = some .badDirective ∧
      faulty (lead.parse 4 4 Ring.empty 0x5F) = none ∧ faulty (lead.parse 4 4 Ring.empty 0x80) = none ∧
      faulty (got .copyKeep 0 .increment 0) = some .badIncrement ∧ faulty (got .copyKeep 0 .increment 17) = some .badIncrement ∧
      faulty (got .copyKeep 0 .increment 1) = none ∧ faulty (got .copyKeep 0 .increment 2) = some .blockOverrun ∧
      faulty (got .copyNew 0 (.operand [0xFF]) 0x07) = none ∧ faulty (got .copyNew 0 (.operand [0x00]) 0x08) = some .badDirective ∧
      faulty (got .copyNew 0 (.operand [0x00]) 0xF8) = none ∧ faulty (got .copyNew 0 (.operand [0xFF]) 0xF7) = some .badDirective ∧
      faulty (got .self 0 (.operand [0x00]) 0x00) = some .badDirective ∧ faulty (got .self 0 (.operand [0xFF]) 0x07) = none ∧
      faulty (got .self 0 (.operand [0x00]) 0x08) = some .badDirective ∧
      faulty (got .copyKeep 1 (.editHead [0xFF]) 0x01) = none ∧ faulty (got .copyKeep 1 (.editHead [0x00]) 0x02) = some .badDirective ∧
      faulty (got .copyKeep 1 (.editHead [0xC0, 0x01]) 64) = none ∧ faulty (got .copyKeep 1 (.editHead [0xC1, 0x01]) 64) = some .editOverrun ∧
      faulty (got .copyKeep 1 (.editHead [0x00, 0x00]) 65) = some .badDirective ∧
      faulty (got .copyKeep 1 (.editHead [0x00, 0x00]) 0) = some .badDirective := by decide +kernel

/-- The last byte of a directive ends the section: its BLOCK item, and the trailer is next; and an edit awaited. -/
theorem test_hyp_StreamGrammar_complete :
    (inDirective .fill 0 (.operand [])).parse 4 4 Ring.empty 7
        = .done { inDirective .fill 0 (.operand []) with position := .trailer, record := .bytes [] } Ring.empty
            [.block ⟨1, 3, 1, .fill 7, []⟩] ∧
      (inDirective .copyKeep 1 (.editData 5 1 0 0)).parse 4 4 Ring.empty 9
        = .done { inDirective .copyKeep 1 (.editData 5 1 0 0) with position := .trailer, record := .bytes [] } ⟨0, [9]⟩
            [.block ⟨1, 3, 1, .copyKeep, [⟨5, 1, 0⟩]⟩] ∧
      (inDirective .copyKeep 1 (.editData 5 1 0 0)).parse 4 4 fullRing 9 = .ringFull := by decide +kernel
theorem test_hyp_DecoderFaultStops :
    let q : Job := { inPhase .quiescing with faultRecord := some ⟨.badHeader, none, none, none, 255⟩ }
    (fed [1]).phase.inRun = true ∧ (inPhase .stopping).phase.inRun = true ∧ q.phase = .quiescing ∧ q.faultRecord = some ⟨.badHeader, none, none, none, 255⟩ ∧
      (inPhase .aborting).phase.inRun = false ∧ (inPhase .aborting).phase ≠ .quiescing := by decide +kernel
theorem test_hyp_SdTakesOrders :
    let g : Signals := ⟨true, true, true, false, false, false, false⟩
    g.suspend = true ∧ g.halt = true ∧ g.decoderStop = true ∧ (fed []).phase = .running ∧ (fed []).decoder.running = true ∧
      (inPhase .running).decoder.running = false ∧ (inPhase .stopping).phase ≠ .running := by decide +kernel
theorem test_hyp_SdStopsAtLimit :
    let d : Decoder := { (fed []).decoder with limit := some (.blocks 3), blocksCovered := 3 }
    let e : Decoder := { (fed []).decoder with limit := some (.sections 1), sectionsCompleted := 1 }
    (fed []).phase = .running ∧ d.running = true ∧ d.waitingOutput = [] ∧ d.limit = some (.blocks 3) ∧ 3 ≤ d.blocksCovered ∧
      e.limit = some (.sections 1) ∧ 1 ≤ e.sectionsCompleted ∧ (fed []).decoder.limit = some .continuous ∧
      ({ d with blocksCovered := 2 } : Decoder).blocksCovered < 3 ∧ ({ e with sectionsCompleted := 0 } : Decoder).sectionsCompleted < 1 ∧
      fresh.decoder.running = false := by decide +kernel

/-- SD stops by its limit in a job that is no longer RUNNING. -/
theorem test_hyp_SdStopsAtLimit_later :
    let d : Decoder := { (fed []).decoder with limit := some (.blocks 3), blocksCovered := 3 }
    let late (p : JobPhase) : Job := { (inPhase p) with stopReason := some .pause, decoder := d }
    d.running = true ∧ d.waitingOutput = [] ∧ d.limit = some (.blocks 3) ∧ 3 ≤ d.blocksCovered ∧
      ∀ p ∈ [JobPhase.stopping, .quiescing, .aborting], (late p).phase ≠ .running ∧
        (((late p).testLimit false).phase, ((late p).testLimit false).stopReason, ((late p).testLimit false).decoder.running)
          = (p, some .pause, false) := by decide +kernel

/-- A full repair list: blocks 0 to 9 and the 31 even blocks from 20. -/
def fullList : List BlockRange := ⟨0, 10⟩ :: (List.range 31).map (fun i => ⟨20 + 2 * i, 1⟩)

theorem test_hyp_RepairListChanges :
    RangesInOrder fullList ∧ RangesInOrder [⟨0, 1⟩] ∧ fullList.length = 32 ∧
      (∀ x ∈ fullList, ¬(x.first ≤ 90 + 1 ∧ 90 ≤ x.first + x.count)) ∧ (⟨0, 10⟩ : BlockRange) ∈ fullList ∧
      (∃ x ∈ fullList, x.first ≤ 10 + 2 ∧ 10 ≤ x.first + x.count) := by
  refine ⟨⟨by decide +kernel, by decide +kernel, by decide +kernel⟩, ⟨by decide, by decide, by decide⟩, by decide +kernel,
    by decide +kernel, by decide +kernel, by decide +kernel⟩
theorem test_hyp_ReportsChangeTheMap : 0 < fresh.tracker.map.length ∧ 3 < fresh.tracker.map.length := by decide +kernel
/-- A scan at position 2: a result on block 0 restarts it, one on block 2, or one that changes nothing below 2, does not. -/
theorem test_hyp_ReportsChangeTheMap_scan :
    let t : Tracker := { (scanning 2).tracker with frontier := 3, scan := some ⟨2, [⟨0, 1⟩], false⟩ }
    let result (start count : Nat) (outcome : TaskOutcome) : Tracker := (t.sectionResult start count outcome).tracker
    t.scan = some ⟨2, [⟨0, 1⟩], false⟩ ∧ (result 0 1 .isMatch).state 0 ≠ t.state 0 ∧
      (result 0 1 .isMatch).scan = some ⟨0, [], false⟩ ∧ (result 2 1 .mismatch).scan = t.scan ∧ (result 2 1 .mismatch).state 2 = .suspect ∧
      carried.tracker.scan = none := by decide +kernel
theorem test_hyp_AccountRequestsRead :
    (withJob fresh).Accepts 1 0x30 [0, 0, 4, 0] ∧ (withJob fresh).Accepts 1 0x31 [] ∧ field [0, 0, 4, 0] 2 2 = 4 ∧
      fresh.descriptor.targetLength = 4 := by decide +kernel
theorem test_hyp_WaiveWaives :
    (withJob carried).Accepts 1 0x33 [0, 0, 2, 0] ∧ carried.phase = .ready ∧ 0 + 2 ≤ carried.tracker.frontier ∧
      ¬(1 ≤ field [0, 0, 0, 0] 2 2) ∧ carried.tracker.state 0 = .carried := by decide +kernel
theorem test_hyp_WaiveWaives_list : RangesInOrder carried.tracker.repairs := ⟨by decide, by decide, by decide⟩
theorem test_hyp_RepairScanWalks :
    (withJob carried).Accepts 1 0x34 [] ∧ (scanning 1).phase = .servicing ∧
      (scanning 1).tracker.scan = some ⟨1, [⟨0, 1⟩], false⟩ ∧ 2 ≤ (Scan.visit .written ⟨1, [⟨0, 1⟩], false⟩).position ∧
      (Scan.visit .empty ⟨0, [], false⟩).position < (scanning 0).tracker.frontier ∧
      (Scan.visit .empty ⟨80, (List.range 32).map (fun i => (⟨2 * i, 1⟩ : BlockRange)), false⟩).foundMore = true ∧
      (inPhase .aborting).phase = .aborting ∧ ({ fresh.signals with scanStop := true } : Signals).scanStop = true := by
  decide +kernel
theorem test_hyp_RuTakesHead :
    let j := queued [.abandon]
    let k : Job := { j with decoder := { j.decoder with waitingOutput := [.abandon] } }
    j.phase.inRun = true ∧ j.unit.activity = .idle ∧ j.queue = .abandon :: [] ∧ j.decoder.waitingOutput = [] ∧
      j.decoder.waitingBytes = [] ∧ k.decoder.waitingOutput ≠ [] := by decide +kernel
theorem test_hyp_ItemsBegin :
    (queued []).phase.inRun = true ∧ 0 ≤ (queued []).tracker.frontier ∧ (queued []).verifier.tasks.length < 4 ∧
      4 ≤ (List.replicate 4 (⟨1, 0, 1, 0⟩ : DigestTask)).length ∧ complete.descriptor.targetLength ≤ complete.tracker.frontier := by
  decide +kernel
theorem test_hyp_ItemsBegin_hole :
    (queued []).tracker.frontier < 1 ∧ (queued []).descriptor.fillPolicy ≠ .noFill ∧
      ({ desc with fillPolicy := .noFill } : Descriptor).fillPolicy = .noFill ∧
      ((Work.mk (queued []) []).beginItem (.sectionBegin 1) false).job.unit.waiting = some (.read (storeIndex 0 0)) ∧
      ((Work.mk { (queued []) with unit := { fresh.unit with carry := List.replicate 64 9 } } []).beginItem (.sectionBegin 1) false).job.unit.waiting
        = some (.write (storeIndex 8 0) (List.replicate 512 0xEE)) := by decide +kernel
/-- A BLOCK item whose first block is copied, and one whose first block fails its test. -/
theorem test_hyp_ItemsBegin_block :
    let copied : BlockItem := ⟨1, 1, 1, .copyNew 1, []⟩
    let failing : BlockItem := ⟨1, 1, 2, .copyNew 1, []⟩
    (queued []).phase.inRun = true ∧
      ((Work.mk (queued []) []).beginItem (.block copied) false).job.unit.block = some ⟨1, .reading, .ownCopy 1⟩ ∧
      ((Work.mk (queued []) []).beginItem (.block copied) false).job.unit.waiting = some (.read (storeIndex 0 2)) ∧
      ((Work.mk (queued []) []).beginItem (.block failing) false).job.unit.activity = .halted ∧
      ((Work.mk (queued []) []).beginItem (.block failing) false).job.faultRecord
        = some ⟨.skipWithoutSource, some 1, some 0, none, 0⟩ := by decide +kernel
theorem test_hyp_BlockPlans :
    carried.tracker.state 0 ≠ .empty ∧ carried.tracker.state 2 = .empty ∧ fresh.unit.displacement = none := by decide +kernel
theorem test_hyp_RuReadCompletes :
    reading.store.inFlight = some ⟨.ru, .read (storeIndex 0 1)⟩ ∧
      reading.job.map (fun j => (j.phase, j.unit.block)) = some (.running, some ⟨0, .reading, .ownCopy 1⟩) ∧
      (reading.store.readBlock (storeIndex 0 1)).isSome = true ∧
      ({ reading.store with damaged := [⟨1, 0⟩] } : Store).readBlock (storeIndex 0 1) = none := by decide +kernel
theorem test_hyp_RuReadCompletes_aborting :
    let s : State := { reading with job := reading.job.map (fun j => { j with phase := .aborting }) }
    s.job.map (fun j => (j.phase, j.unit.order)) = some (.aborting, .work) := by decide +kernel
/-- Two edits of which the second has its data across the end of the ring: the bytes replaced, and their neighbours. -/
theorem test_hyp_RuReadCompletes_edits :
    let ring : Ring := ⟨4093, [1, 2, 3, 4, 5]⟩
    let edits : List Edit := [⟨0, 2, 4093⟩, ⟨509, 3, 4095⟩]
    let edited := applyEdits ring edits (List.replicate 512 0)
    (∀ e ∈ edits, e.offset + e.length ≤ 512 ∧ (e.place + 4096 - ring.head) % 4096 + e.length ≤ ring.bytes.length) ∧
      edits.Pairwise (fun a b => a.offset + a.length ≤ b.offset) ∧ (List.replicate 512 (0 : Byte)).length = 512 ∧
      edited.take 3 = [1, 2, 0] ∧ edited.drop 508 = [0, 3, 4, 5] := by decide +kernel
theorem test_hyp_RuWriteCompletes :
    writing.store.inFlight = some ⟨.ru, .write (storeIndex 8 0) [0x77]⟩ ∧
      writing.job.map (fun j => (j.phase.inRun, j.unit.order, j.unit.block, j.unit.activity, j.verifier.tasks))
        = some (true, .work, some ⟨0, .writing, .ownCopy 1⟩, .build, []) ∧
      writing.job.map (fun j => j.unit.item) = some (some ⟨.block ⟨1, 0, 1, .copyNew 1, []⟩, 0, 0 + 1⟩) ∧
      writing.job.map (fun j => (j.tracker.writeReport 0 false).overflowed) = some none := by decide +kernel
/-- A job whose RU fills the hole of blocks 1 and 2, with the section's first directive queued behind: F is at 3. -/
def filling : Job := { inPhase .running with
  queue := [.block ⟨1, 3, 1, .fill 0, []⟩]
  unit := { fresh.unit with
    activity := .hole
    item := some ⟨.sectionBegin 3, 1, 3⟩
    block := some ⟨1, .writing, .holeFill⟩ }
  tracker := ⟨[.written, .empty, .empty, .empty], 3, [⟨1, 2⟩], false, none⟩ }

theorem test_hyp_RuWriteCompletes_tainted :
    let j : Job := { carried with
      phase := .running
      unit := { fresh.unit with
        activity := .build
        item := some ⟨.block ⟨1, 1, 1, .self 1, []⟩, 1, 1 + 1⟩
        block := some ⟨1, .writing, .ownSelf true⟩ } }
    j.phase.inRun = true ∧ j.unit.order = .work ∧ j.verifier.tasks = [] ∧
      (((Work.mk j []).unitWrite false).job.tracker.map, ((Work.mk j []).unitWrite false).job.tracker.repairs)
        = ([.carried, .suspect, .empty, .empty], [⟨0, 2⟩]) := by decide +kernel
theorem test_hyp_RuWriteCompletes_skipped :
    let j : Job := { inPhase .running with
      decoder := (fed []).decoder
      unit := { fresh.unit with
        activity := .build
        displacement := some 0
        item := some ⟨.block ⟨1, 1, 2, .copyKeep, []⟩, 0, 2⟩
        block := some ⟨0, .writing, .skipped 0⟩ } }
    j.phase.inRun = true ∧ j.unit.order = .work ∧ j.verifier.tasks = [] ∧ 0 + 1 < 2 ∧ j.decoder.waitingOutput = [] ∧
      j.decoder.waitingBytes = [] ∧
      ((Work.mk j []).unitWrite false).job.unit.waiting = some (.read (storeIndex 0 1)) := by decide +kernel
theorem test_hyp_RuWriteCompletes_hole :
    filling.phase.inRun = true ∧ filling.unit.item = some ⟨.sectionBegin 3, 1, 3⟩ ∧
      filling.unit.block = some ⟨1, .writing, .holeFill⟩ ∧ filling.unit.activity = .hole ∧ 1 + 1 < 3 ∧ filling.unit.order = .work ∧
      filling.verifier.tasks = [] ∧ filling.decoder.waitingOutput = [] ∧
      (((Work.mk filling []).unitWrite false).job.unit.block.map (fun k => k.target)) = some 2 := by decide +kernel
theorem test_hyp_RuWriteCompletes_fill :
    let j : Job := { carried with
      phase := .servicing
      unit := { fresh.unit with
        activity := .fill
        fill := some ⟨0, 1, .byte, 0xAA, true, 0, 0⟩
        block := some ⟨0, .writing, .hostFill true⟩ } }
    j.unit.fill = some ⟨0, 1, .byte, 0xAA, true, 0, 0⟩ ∧ j.phase = .servicing ∧ j.unit.order = .work ∧
      ((Work.mk j []).unitWrite false).notices = [.fillDone 7 1] ∧
      (((Work.mk j []).unitWrite false).job.tracker.map, ((Work.mk j []).unitWrite false).job.phase)
        = ([.waived, .written, .empty, .empty], .ready) := by decide +kernel
/-- A job whose RU has an order and a copied block in hand: its own block of the item, or one below it. -/
def ordered (p : JobPhase) (order : UnitOrder) (work : BlockWork) (own : Nat) : Job := { inPhase p with
  unit := { fresh.unit with
    activity := .build
    order := order
    displacement := some 0
    item := some ⟨.block ⟨1, own, own + 1, .copyKeep, []⟩, 0, own + 1⟩
    block := some ⟨0, .writing, work⟩ } }

/-- RU's write completes after its quiescing notice and after its ABORT stop: its activity, its blocks written, its report to JC. -/
theorem test_hyp_RuWriteCompletes_orders :
    let done (j : Job) : Activity × Nat × Bool × Option Int :=
      let t := ((Work.mk j []).unitWrite false).job
      (t.unit.activity, t.counters.blocksWritten, t.unitClear, t.unit.carry.head?)
    (ordered .quiescing .quiesce (.ownCopy 3) 0).verifier.tasks = [] ∧
      (ordered .quiescing .quiesce (.skipped 3) 1).decoder.waitingOutput = [] ∧
      (ordered .aborting .stop (.skipped 3) 1).decoder.waitingBytes = [] ∧
      done (ordered .quiescing .quiesce (.ownCopy 3) 0) = (.idle, 1, false, some 3) ∧
      done (ordered .quiescing .quiesce (.skipped 3) 1) = (.halted, 1, false, some 3) ∧
      done (ordered .aborting .stop (.ownCopy 3) 0) = (.idle, 0, true, some 3) ∧
      done (ordered .aborting .stop (.skipped 3) 1) = (.halted, 0, true, some 3) := by decide +kernel

/-- A hole block's write completes after the quiescing notice and after the ABORT stop, with a block to follow and as the last one of
an IMAGE_END. -/
theorem test_hyp_RuWriteCompletes_ordersHole :
    let hole (p : JobPhase) (order : UnitOrder) (item : Item) (stop : Nat) : Job := { filling with
      phase := p
      unit := { filling.unit with order := order, item := some ⟨item, 1, stop⟩ } }
    let done (j : Job) : Activity × Nat × Bool × EndRecord :=
      let t := ((Work.mk j []).unitWrite false).job
      (t.unit.activity, t.counters.blocksFilled, t.unitClear, t.endRecord)
    1 + 1 < 3 ∧ 2 ≤ 1 + 1 ∧
      done (hole .quiescing .quiesce (.sectionBegin 3) 3) = (.halted, 1, false, ⟨false, none⟩) ∧
      done (hole .quiescing .quiesce (.imageEnd 9) 2) = (.idle, 1, false, ⟨true, some 9⟩) ∧
      done (hole .aborting .stop (.sectionBegin 3) 3) = (.halted, 0, true, ⟨false, none⟩) ∧
      done (hole .aborting .stop (.imageEnd 9) 2) = (.idle, 0, true, ⟨false, none⟩) := by decide +kernel

/-- A FILL's write completes after the ABORT stop. -/
theorem test_hyp_RuWriteCompletes_fillStopped :
    let j : Job := { carried with
      phase := .aborting
      unit := { fresh.unit with activity := .fill, order := .stop, block := some ⟨0, .writing, .hostFill true⟩ } }
    let done := (Work.mk j []).unitWrite false
    j.unit.fill = none ∧ j.unit.block = some ⟨0, .writing, .hostFill true⟩ ∧ j.verifier.tasks = [] ∧ done.notices = [] ∧
      (done.job.unit.activity, done.job.unitClear, done.job.tracker.map) = (.idle, true, [.waived, .written, .empty, .empty]) := by
  decide +kernel
theorem test_hyp_UnitsTakeOrders :
    let g : Signals := ⟨false, false, false, true, true, true, false⟩
    g.quiescing = true ∧ g.unitStop = true ∧ g.verifierStop = true ∧ fresh.unit.order = .work ∧
      up.store.outstanding .ru = false ∧ reading.store.outstanding .ru = true := by decide +kernel
theorem test_hyp_MonitorExpiryPostsStall :
    ({ fresh.unit with monitor := .running 100 } : ReconUnit).monitor = .running 100 ∧ (inPhase .stopping).phase.inRun = true := by
  decide +kernel
theorem test_hyp_FillStarts :
    (withJob carried).Accepts 1 0x32 [0, 0, 2, 0, 1, 0xAA, 0] ∧ carried.phase = .ready ∧
      (carried.tracker.state 0).listable = true ∧ (carried.tracker.state 1).listable = false := by decide +kernel
theorem test_hyp_FillStarts_fields :
    readFill 2 [0, 0, 2, 0, 1, 0xAA, 0] = .ok ⟨0, 2, .byte, 0xAA, false, 0, 0⟩ ∧ readFill 2 [0, 0, 3, 0, 1, 0xAA, 0] = .error 2 ∧
      readFill 2 [0, 0, 2, 0, 2, 0xAA, 0] = .error 3 ∧ readFill 2 [0, 0, 2, 0, 1, 0xAA, 2] = .error 5 := ⟨rfl, rfl, rfl, rfl⟩
theorem test_hyp_VeReadCompletes :
    (verifying false).store.inFlight = some ⟨.ve, .read (storeIndex 8 1)⟩ ∧
      (verifying false).job.map (fun j => (j.phase, j.verifier))
        = some (.ready, ⟨[⟨5, 1, 1, 0⟩], some ⟨1, crc32Init⟩, none, none, false⟩) ∧
      ((verifying false).store.readBlock (storeIndex 8 1)).isSome = true ∧
      (verifying true).store.readBlock (storeIndex 8 1) = none := by decide +kernel
theorem test_hyp_VeReadCompletes_notLast :
    let s : State := { verifying false with job := (verifying false).job.map (fun j =>
      { j with verifier := { j.verifier with tasks := [⟨5, 1, 2, 0⟩] } }) }
    s.store.inFlight = some ⟨.ve, .read (storeIndex 8 1)⟩ ∧
      s.job.map (fun j => j.verifier) = some ⟨[⟨5, 1, 2, 0⟩], some ⟨1, crc32Init⟩, none, none, false⟩ ∧
      (s.store.readBlock (storeIndex 8 1)).isSome = true ∧ 1 + 1 ≠ 1 + 2 := by decide +kernel
theorem test_hyp_VeReadCompletes_discarded :
    let v : Verifier := ⟨[], none, none, none, true⟩
    v.discarded = true ∧ (inPhase .aborting).phase = .aborting ∧ (inPhase .aborting).signals.verifierStop = false := by decide +kernel
theorem test_hyp_TaskResultReported :
    let t : DigestTask := ⟨5, 1, 1, 0⟩
    let waits : Job := { carried with
      unit := { fresh.unit with activity := .verifyWait, item := some ⟨.sectionEnd 6 0 1 (some 0), 0, 0⟩ }
      verifier := ⟨[t], some ⟨1, crc32Init⟩, none, some (storeIndex 8 1), false⟩ }
    let runs : Job := { waits with verifier := ⟨[t, ⟨4, 0, 1, 0⟩], some ⟨1, crc32Init⟩, none, some (storeIndex 8 1), false⟩ }
    carried.phase ≠ .aborting ∧ waits.unit.activity = .verifyWait ∧ waits.verifier.tasks.length < 4 ∧
      runs.verifier.tasks = t :: [⟨4, 0, 1, 0⟩] ∧ runs.verifier.progress ≠ none ∧ t.start ≤ 1 ∧ 1 < t.start + t.count ∧
      waits.handOff.verifier.tasks = [t, ⟨6, 0, 1, 0⟩] ∧
      (runs.cancelTasks 1 false).verifier
        = ⟨[⟨4, 0, 1, 0⟩, ⟨6, 0, 1, 0⟩], some ⟨0, crc32Init⟩, none, some (storeIndex 8 0), false⟩ ∧
      (runs.cancelTasks 1 true).verifier = ⟨[⟨4, 0, 1, 0⟩, ⟨6, 0, 1, 0⟩], none, none, none, true⟩ := by decide +kernel
theorem test_hyp_CloseImageTested :
    (withJob complete).Accepts 1 0x38 [] ∧ complete.phase = .ready ∧ carried.endRecord.seen = false ∧
      complete.endRecord = ⟨true, some 0x12345678⟩ ∧ carried.tracker.frontier < carried.descriptor.targetLength ∧
      complete.descriptor.targetLength ≤ complete.tracker.frontier ∧
      (∀ b, b < complete.tracker.map.length → (complete.tracker.state b).listable = false) ∧
      complete.tracker.repairs = [] ∧ complete.tracker.overflow = false ∧ complete.verifier.isIdle false = true ∧
      complete.verifier.isIdle true = false ∧ (carried.tracker.state 0).listable = true := by decide +kernel

/-- A job in CLOSING whose read of its last block is in flight. -/
def closing : State :=
  let s := withJob { complete with phase := .closing, verifier := ⟨[], none, some ⟨3, crc32Init, 0⟩, none, false⟩ }
  { s with store := { s.store with inFlight := some ⟨.ve, .read (storeIndex 8 3)⟩ } }

theorem test_hyp_CloseEnds :
    closing.job.map (fun j => (j.phase, j.verifier.discarded, j.verifier.close, j.tracker.repairs))
        = some (.closing, false, some ⟨3, crc32Init, 0⟩, []) ∧
      closing.store.inFlight = some ⟨.ve, .read (storeIndex 8 3)⟩ ∧ 3 + 1 = desc.targetLength ∧
      (closing.store.readBlock (storeIndex 8 3)).isSome = true := by decide +kernel
theorem test_hyp_CloseEnds_notLast :
    let s : State := { closing with
      job := closing.job.map (fun j => { j with verifier := { j.verifier with close := some ⟨2, crc32Init, 0⟩ } })
      store := { closing.store with inFlight := some ⟨.ve, .read (storeIndex 8 2)⟩ } }
    s.job.map (fun j => (j.phase, j.verifier.discarded, j.verifier.close)) = some (.closing, false, some ⟨2, crc32Init, 0⟩) ∧
      s.store.inFlight = some ⟨.ve, .read (storeIndex 8 2)⟩ ∧ 2 + 1 ≠ desc.targetLength ∧
      (s.store.readBlock (storeIndex 8 2)).isSome = true := by decide +kernel
theorem test_hyp_CloseEnds_check :
    ({ closing.store with damaged := [⟨11, 0⟩] } : Store).readBlock (storeIndex 8 3) = none := by decide +kernel
theorem test_hyp_CloseEnds_digests (data : Bytes) :
    (∃ expected, crc32Fold crc32Init data ^^^ 0xFFFFFFFF#32 = expected) ∧
      ∃ expected, crc32Fold crc32Init data ^^^ 0xFFFFFFFF#32 ≠ expected := by
  refine ⟨⟨_, rfl⟩, ?_⟩
  by_cases h : crc32Fold crc32Init data ^^^ 0xFFFFFFFF#32 = 0
  · exact ⟨1, by rw [h]; decide⟩
  · exact ⟨0, h⟩
theorem test_hyp_EventEndTests :
    let j : Job := { inPhase .stopping with stopReason := some .limit }
    let q : Job := { inPhase .quiescing with decoderQuiet := true, faultRecord := some ⟨.badHeader, none, none, none, 0⟩ }
    (j.decoder.running = false ∧ j.queue = [] ∧ j.unit.activity = .idle ∧ j.stopReason = some .limit) ∧
      (q.decoder.running = false ∧ q.decoderQuiet = true ∧ q.unit.activity = .idle ∧ q.unit.waiting = none
        ∧ q.faultRecord.isSome = true) ∧
      ({ inPhase .aborting with unitClear := true, verifierClear := true } : Job).tornDown = true := by decide +kernel
/-- The timers at the end of an event: a gap timer that starts, one that goes on, one that a stop drain ends, and the monitor. -/
theorem test_hyp_EventEndTests_timers :
    let run (timer : GapTimer) : Job := { gapped with
      window := { gapped.window with gapTimer := timer }
      unit := { fresh.unit with monitor := .running 60 } }
    let ends (j : Job) : GapTimer × Monitor :=
      let t := ((Work.mk j []).settle false).job
      (t.window.gapTimer, t.unit.monitor)
    gapped.window.held? gapped.window.base = none ∧ 0 < gapped.window.heldCount ∧
      ends (run .idle) = (.running 5, .running 60) ∧ ends (run (.running 2)) = (.running 2, .running 60) ∧
      ends { run (.running 2) with phase := .stopping, stopReason := some .limit, decoder := fresh.decoder } = (.idle, .stopped) := by
  decide +kernel
theorem test_hyp_HostTransfersJoin :
    up.Accepts 1 0x40 [0xFF, 0x0F] ∧ up.Accepts 1 0x41 ([0x00, 0x10] ++ List.replicate 512 1) ∧
      field [0xFF, 0x0F] 0 2 < 4096 ∧ 4096 ≤ field ([0x00, 0x10] ++ List.replicate 512 1) 0 2 ∧
      (withJob fresh).Accepts 1 0x41 ([11, 0] ++ List.replicate 512 1) ∧ fresh.descriptor.locks 11 = true ∧
      fresh.unit.waiting = none ∧ fresh.verifier.waiting = none := by decide +kernel
theorem test_hyp_HostTransferCompletes :
    transferring.store.inFlight = some ⟨.lp, .write (storeIndex 0 20) [0x42]⟩ ∧
      transferring.link.transfers.length = 2 := by decide +kernel
theorem test_hyp_StoredBlocksReadBack :
    Memory.wf up.store.memory ∧ up.store.clear = none ∧ (List.replicate 512 (1 : Byte)).length = Config.blockBytes := by
  decide +kernel
theorem test_hyp_ArbiterRotates :
    let s := withJob { fresh with verifier := { fresh.verifier with waiting := some (storeIndex 8 0) } }
    s.store.inFlight = none ∧ s.store.clear = none ∧ s.waitingOp .ve = some (.read (storeIndex 8 0)) ∧ s.waitingOp .ru = none ∧
      s.waitingOp .lp = none ∧ s.store.lastGranted = .lp ∧ transferring.store.inFlight.isSome = true := by decide +kernel
/-- LP's turn with a write to a locked block at its head and a request of RU behind it: LOCKED, and RU is granted. -/
theorem test_hyp_ArbiterRotates_locked :
    let j : Job := { fresh with unit := { fresh.unit with waiting := some (.read (storeIndex 0 0)) } }
    let s : State := { withJob j with
      store := { up.store with lastGranted := .ve }
      link := { up.link with transfers := [⟨1, .write (storeIndex 8 0) [0x42]⟩] } }
    s.store.inFlight = none ∧ s.store.clear = none ∧ s.link.transfers = ⟨1, .write (storeIndex 8 0) [0x42]⟩ :: [] ∧
      s.locked (storeIndex 8 0).val = true ∧ s.arbitrate.link.replies = [⟨1, .locked, .blockIndex 8⟩] ∧
      s.arbitrate.link.transfers = [] ∧ s.arbitrate.store.memory = s.store.memory ∧
      s.arbitrate.store.inFlight = some ⟨.ru, .read (storeIndex 0 0)⟩ ∧ s.arbitrate.store.lastGranted = .ru ∧
      (s.arbitrate.job.map (fun k => k.unit.waiting)) = some none := by decide +kernel
theorem test_hyp_ClearWriteCompletes :
    State.reset.store.clear = some ⟨0, 0, false, 0⟩ ∧
      ({ up.store with clear := some ⟨4095, 4095, false, 0⟩ } : Store).clear.isSome = true := by decide +kernel
theorem test_hyp_ResetsEmptyTheLink : up.store.clear = none ∧ State.reset.store.clear = some ⟨0, 0, false, 0⟩ := by decide +kernel
theorem test_hyp_BadFramesDiscarded :
    let kind : Bytes := [0, 0, 2, 7, 0x01] ++ le16 (crc16 [0, 0, 2, 7, 0x01]).toNat
    frameCrcOk [0, 0, 1, 7, 0x01, 0, 0] = false ∧ frameCrcOk kind = true ∧ frameKindOk kind = false ∧
      up.link.receiver = .hunting := by decide +kernel

/-- The frame of IDENTIFY with tag 7, after its start byte. -/
def identifyFrame : Bytes := [0, 0, 1, 7, 0x01] ++ le16 (crc16 [0, 0, 1, 7, 0x01]).toNat

theorem test_hyp_ReceiverAssembles :
    520 < frameBodyLength [0x09, 0x02] ∧ frameBodyLength [0x08, 0x02] ≤ 520 ∧ identifyFrame.length = 7 + frameBodyLength identifyFrame ∧
      frameCrcOk identifyFrame = true ∧ frameKindOk identifyFrame = true ∧ frameTag identifyFrame = 7 ∧
      frameCode identifyFrame = 0x01 ∧ frameBody identifyFrame = [] ∧ 2 ≤ (identifyFrame.take 6).length := by decide +kernel
/-- Complete frames with a bad CRC, with a bad kind, and with a code that is none of the eighteen. -/
theorem test_hyp_ReceiverAssembles_other :
    let bad : Bytes := [0, 0, 1, 7, 0x01, 0] ++ [0]
    let kind : Bytes := [0, 0, 2, 7, 0x01] ++ le16 (crc16 [0, 0, 2, 7, 0x01]).toNat
    let unknown : Bytes := [0, 0, 1, 7, 0x99] ++ le16 (crc16 [0, 0, 1, 7, 0x99]).toNat
    (∀ f ∈ [bad, kind, unknown], 2 ≤ (f.take 6).length ∧ (f.take 6).length + 1 = 7 + frameBodyLength f) ∧
      frameCrcOk bad = false ∧ frameKindOk kind = false ∧ frameCrcOk unknown = true ∧ frameKindOk unknown = true ∧
      frameCode unknown ∉ requestCodes := by decide +kernel
theorem test_hyp_TransmitterChooses :
    let s := after (.identify 3 []) up
    s.link.sending.isSome = true ∧ up.link.sending = none ∧ (up.post (.aborted 7)).link.notices = [⟨.aborted 7, 0, false⟩] ∧
      (up.reply 1 .ok .empty).link.replies = [⟨1, .ok, .empty⟩] := by decide +kernel
theorem test_hyp_NoticeQueueRules :
    let s := up.post (.aborted 7)
    s.Accepts 1 0x50 [0] ∧ s.link.notices = [] ++ ⟨.aborted 7, 0, false⟩ :: [] ∧ BitVec.ofNat 8 (field [0] 0 1) = 0 ∧
      s.link.notices.length ≤ 8 ∧ s.Accepts 1 0x51 [] ∧ (∀ n ∈ s.link.notices, n.sequence ≠ BitVec.ofNat 8 (field [9] 0 1)) := by
  decide +kernel

/-- A state with a job and a command that waits: the laws hold of it, and its step answers a next state. -/
def waitingCommand : State := { withJob fresh with pending := [.sdTakeByte] }

theorem test_hyp_step : step waitingCommand = .next (withJob fresh) := by rfl
theorem test_hyp_StepKeepsMemoryCanonical : Memory.wf waitingCommand.store.memory := by decide +kernel
theorem test_hyp_StepKeepsNoticesInOrder : waitingCommand.link.NoticesInOrder := ⟨by decide, rfl⟩
theorem test_hyp_StepKeepsOneAnswerEach : waitingCommand.link.OneAnswerEach :=
  ⟨by decide, List.nodup_nil, List.Perm.refl _, fun r h => by cases h⟩
theorem test_hyp_StepKeepsWindowSound : waitingCommand.jobHas (fun j => j.window.Sound) := by
  intro j h
  obtain rfl : fresh = j := Option.some.inj h
  refine ⟨rfl, by decide, ?_, ?_⟩
  · intro i p h
    have hs : fresh.window.slots = List.replicate 16 none := rfl
    rw [hs, List.getElem?_replicate] at h
    split at h <;> simp at h
  · intro p h
    have hn : fresh.window.held? fresh.window.base = none := by decide +kernel
    rw [hn] at h
    cases h
theorem test_hyp_StepKeepsRecordAndTimers :
    waitingCommand.jobHas Job.FaultRecordFits ∧ waitingCommand.jobHas Job.TimersFit := by
  constructor <;> intro j h <;> obtain rfl : fresh = j := Option.some.inj h
  · unfold Job.FaultRecordFits; decide +kernel
  · unfold Job.TimersFit; decide +kernel
theorem test_hyp_StepKeepsListsInOrder : waitingCommand.jobHas (fun j => j.tracker.ListsInOrder) := by
  intro j h
  obtain rfl : fresh = j := Option.some.inj h
  exact ⟨⟨by decide, by decide, by decide⟩, fun sc h => by cases h⟩
/-- A new job meets the region laws. -/
theorem fresh_inTarget : fresh.InTarget := by
  refine ⟨by decide, by decide, by decide, by decide, ?_, trivial, ?_, ?_, ?_, ?_, ?_, ?_⟩
  all_goals intro x h
  all_goals cases h

theorem filling_inTarget : filling.InTarget := by
  refine ⟨by decide, by decide, by decide, by decide, (by intro c h; cases h), trivial, ?_, (by intro i h; cases h), ?_, ?_,
    (by intro f h; cases h), by intro op h; cases h⟩
  · intro i h
    obtain rfl := List.mem_singleton.mp h
    exact ⟨by decide, by decide⟩
  · intro c h
    cases h
    exact ⟨show 3 ≤ 4 by decide, show 3 ≤ 4 by decide⟩
  · intro k h
    cases h
    decide
theorem filling_listExact : filling.tracker.ListExact := by
  refine ⟨?_, ?_, ?_⟩
  · intro r hr b hb
    obtain rfl : r = ⟨1, 2⟩ := by simpa [filling] using hr
    have h : 1 ≤ b ∧ b < 3 := by
      have hb' : (decide (1 ≤ b) && decide (b < 3)) = true := hb
      simpa using hb'
    obtain rfl | rfl : b = 1 ∨ b = 2 := by omega
    all_goals decide
  · intro _ b hb hl
    have h : b < 3 := hb
    obtain rfl | rfl | rfl : b = 0 ∨ b = 1 ∨ b = 2 := by omega
    · exact absurd hl (by decide)
    all_goals exact ⟨⟨1, 2⟩, by decide, by decide⟩
  · intro b hb
    obtain ⟨k, rfl⟩ : ∃ k, b = 3 + k := ⟨b - 3, by have h : 3 ≤ b := hb; omega⟩
    rcases k with _ | k
    · decide
    · have hn : filling.tracker.map[3 + (k + 1)]? = none := List.getElem?_eq_none (show 4 ≤ 3 + (k + 1) by omega)
      simp [Tracker.state, hn]
theorem filling_workFits : filling.WorkFitsPhase := by
  refine ⟨by decide, by decide, by decide, by decide, by decide, by decide, by decide, by decide, (by intro h; cases h),
    (by intro f h; cases h), by decide, (by intro c h; cases h), by decide⟩
theorem test_hyp_ListLaws : filling.ListLaws := by
  refine ⟨filling_inTarget, ⟨⟨by decide, by decide, by decide⟩, fun sc h => by cases h⟩, filling_listExact,
    fun sc h => (by cases h), ⟨some 3, ⟨by decide, by decide, ?_⟩, ⟨rfl, trivial⟩, ?_⟩, ?_, filling_workFits⟩
  · intro q h
    cases h
    decide
  · intro _ c h
    cases h
  · intro k h
    cases h
    exact ⟨rfl, _, _, rfl, Or.inl ⟨_, rfl⟩⟩
theorem test_hyp_StepKeepsSizes : waitingCommand.link.CountersInWidth ∧ waitingCommand.jobHas Job.InCapacity := by
  refine ⟨by unfold Link.CountersInWidth; decide +kernel, ?_⟩
  intro j h
  obtain rfl : fresh = j := Option.some.inj h
  unfold Job.InCapacity
  decide +kernel
theorem test_hyp_StepKeepsUnitWritesTarget : waitingCommand.UnitWritesTarget := by
  refine ⟨fun h => (by cases h), ⟨fresh_inTarget, ⟨fun h => (by cases h), fun h => (by cases h), fun h => by cases h⟩, ?_⟩⟩
  intro op h
  cases h
theorem test_hyp_FrontierNeverFalls : exec .sdTakeByte (withJob fresh) = .next (withJob fresh) := by rfl

end Sys2Proof.Tests
end

section
/-! The requests of JC: what an accepted request comes to, and IDENTIFY (R20). -/

namespace Sys2Proof.Machine

/-- A request of one of the eighteen codes that passes the request table and the length test is performed at once in the state that
holds its table entry, and the transmit arbiter then chooses (R171, R172, R174). -/
theorem State.Accepts.request_eq {s : State} {tag code : Byte} {body : Bytes} (h : s.Accepts tag code body)
    (perform : State → State) : s.request tag code body perform = (perform (s.entered tag code)).transmit := by
  obtain ⟨hclear, htag, hroom, hlen, hok⟩ := h
  exact State.request_open perform hlen hok htag hroom hclear

/-- A request whose whole work is one reply is answered with it, once accepted. -/
theorem State.Accepts.request_reply {s : State} {tag code : Byte} {body : Bytes} (h : s.Accepts tag code body)
    (status : ReplyStatus) (reply : ReplyBody) :
    s.request tag code body (State.reply tag status reply) = s.answered tag code status reply :=
  h.request_eq _

/-- IDENTIFY is a request of code 01h whose work is the one reply OK with the part's identity (R20). -/
theorem exec_identify (tag : Byte) (body : Bytes) (s : State) :
    exec (.identify tag body) s = .next (s.request tag 0x01 body (State.reply tag .ok .identity)) := by
  rfl

/-- The fields of the identity, each least significant byte first: vendor, part, revision, blocks, block size, window slots,
Directive Queue items and repair ranges (R20, R186). -/
theorem ReplyBody.bytes_identity :
    ReplyBody.identity.bytes = [0x5A, 0x4E, 0x40, 0x71, 0x02, 0x00, 0x10, 0x00, 0x02, 0x10, 0x10, 0x20] := by
  rfl

/-- Settles O7: IDENTIFY's work is one reply, so an accepted IDENTIFY is answered and nothing else, and the reply's bytes depend on no
state. -/
theorem identifyAnswers : Obligations.IdentifyAnswers := by
  unfold Obligations.IdentifyAnswers
  refine ⟨fun tag body s haccepts => ?_, ReplyBody.bytes_identity⟩
  rw [exec_identify, haccepts.request_reply]

end Sys2Proof.Machine
end

section
/-! The requests that read the account, GET_MAP and GET_REPAIRS (R36, R37): what each comes to at a job, the bytes of the repair list,
and the order of its ranges. -/

namespace Sys2Proof.Machine

/-- Fields that pass their tests are handed to the request's work. -/
theorem State.withFields_ok {α : Type} (tag : Byte) (a : α) (perform : α → State → State) (s : State) :
    s.withFields tag (.ok a) perform = perform a s := rfl

/-- The first field that fails its test is named by BAD_PARAM, and the request does no work (R184). -/
theorem State.withFields_error {α : Type} (tag : Byte) (number : Nat) (perform : α → State → State) (s : State) :
    s.withFields tag (.error number) perform = s.reply tag .badParam (.badField number) := rfl

/-- A job's phase does not matter to GET_MAP and GET_REPAIRS: every state with a job takes them (R9). -/
theorem State.atJobState_account {s : State} {j : Job} (tag : Byte) (perform : Job → State → State) (hj : s.job = some j) :
    s.atJobState tag .account perform = perform j s :=
  State.atJobState_taken perform hj rfl

/-- GET_MAP's range is taken when it names 1 to 256 blocks inside the target; else its count is at fault (R36). -/
theorem readMapRange_eq (targetLength : Nat) (body : Bytes) :
    readMapRange targetLength body =
      if 1 ≤ field body 2 2 ∧ field body 2 2 ≤ 256 ∧ field body 0 2 + field body 2 2 ≤ targetLength then
        .ok ⟨field body 0 2, field body 2 2⟩
      else .error 2 := by
  unfold readMapRange
  by_cases hrange : 1 ≤ field body 2 2 ∧ field body 2 2 ≤ 256 ∧ field body 0 2 + field body 2 2 ≤ targetLength
  · rw [if_pos hrange]
    exact if_neg (by omega)
  · rw [if_neg hrange]
    exact if_pos (by omega)

/-- The states of a range's blocks, in the order of the blocks, as the map holds them. -/
theorem Tracker.map_state_blocks (t : Tracker) (first count : Nat) :
    (BlockRange.mk first count).blocks.map t.state = (List.range count).map (fun i => t.map.getD (first + i) .empty) :=
  List.map_map

/-- GET_MAP at a job is one reply: the range with F and its blocks' states, or BAD_PARAM naming field 2 (R36). -/
theorem State.getMap_eq {s : State} {j : Job} (tag : Byte) (body : Bytes) (hj : s.job = some j) :
    s.getMap tag body =
      if 1 ≤ field body 2 2 ∧ field body 2 2 ≤ 256 ∧ field body 0 2 + field body 2 2 ≤ j.descriptor.targetLength then
        s.reply tag .ok (.map (field body 0 2) (field body 2 2) j.tracker.frontier
          ((List.range (field body 2 2)).map (fun i => j.tracker.map.getD (field body 0 2 + i) .empty)))
      else s.reply tag .badParam (.badField 2) := by
  rw [State.getMap, State.atJobState_account tag _ hj, readMapRange_eq]
  split_ifs with hrange
  · rw [State.withFields_ok, Tracker.map_state_blocks]
  · rw [State.withFields_error]

/-- GET_REPAIRS at a job is one reply: OK with F, the overflow flag and the list (R37). -/
theorem State.getRepairs_eq {s : State} {j : Job} (tag : Byte) (hj : s.job = some j) :
    s.getRepairs tag = s.reply tag .ok (.repairs j.tracker.frontier j.tracker.overflow j.tracker.repairs) :=
  State.atJobState_account tag _ hj

/-- GET_MAP is a request of code 30h. -/
theorem exec_getMap (tag : Byte) (body : Bytes) (s : State) :
    exec (.getMap tag body) s = .next (s.request tag 0x30 body (State.getMap tag body)) := by
  rfl

/-- GET_REPAIRS is a request of code 31h. -/
theorem exec_getRepairs (tag : Byte) (body : Bytes) (s : State) :
    exec (.getRepairs tag body) s = .next (s.request tag 0x31 body (State.getRepairs tag)) := by
  rfl

/-- The table entry of a request leaves the job as it is. -/
@[simp] theorem State.entered_job (s : State) (tag code : Byte) : (s.entered tag code).job = s.job := rfl

/-- An accepted GET_MAP is answered, and nothing else happens (R36). -/
theorem State.Accepts.exec_getMap {s : State} {j : Job} {tag : Byte} {body : Bytes} (h : s.Accepts tag 0x30 body)
    (hj : s.job = some j) :
    exec (.getMap tag body) s = .next (
      if 1 ≤ field body 2 2 ∧ field body 2 2 ≤ 256 ∧ field body 0 2 + field body 2 2 ≤ j.descriptor.targetLength then
        s.answered tag 0x30 .ok (.map (field body 0 2) (field body 2 2) j.tracker.frontier
          ((List.range (field body 2 2)).map (fun i => j.tracker.map.getD (field body 0 2 + i) .empty)))
      else s.answered tag 0x30 .badParam (.badField 2)) := by
  rw [Machine.exec_getMap, h.request_eq, State.getMap_eq tag body ((s.entered_job tag 0x30).trans hj),
    apply_ite State.transmit]
  rfl

/-- An accepted GET_REPAIRS is answered, and nothing else happens (R37). -/
theorem State.Accepts.exec_getRepairs {s : State} {j : Job} {tag : Byte} {body : Bytes} (h : s.Accepts tag 0x31 body)
    (hj : s.job = some j) :
    exec (.getRepairs tag body) s = .next (s.answered tag 0x31 .ok
      (.repairs j.tracker.frontier j.tracker.overflow j.tracker.repairs)) := by
  rw [Machine.exec_getRepairs, h.request_eq, State.getRepairs_eq tag ((s.entered_job tag 0x31).trans hj)]
  rfl

/-- GET_REPAIRS's body: F, the overflow flag, the range count, and each range as first block and count (R37, R186). -/
theorem ReplyBody.bytes_repairs (frontier : Nat) (overflow : Bool) (ranges : List BlockRange) :
    (ReplyBody.repairs frontier overflow ranges).bytes
      = le16 frontier ++ [if overflow then 1 else 0] ++ le8 ranges.length ++ ranges.flatMap (fun r => le16 r.first ++ le16 r.count) := by
  rfl

/-- A list in order ascends by first block: a range's end lies at or after its first block and before the next range (R30). -/
theorem RangesInOrder.first_lt {ranges : List BlockRange} (h : RangesInOrder ranges) :
    ranges.Pairwise (fun a b => a.first < b.first) := by
  obtain ⟨-, -, hapart⟩ := h
  refine hapart.imp fun {a b} hab => ?_
  calc a.first ≤ a.stop := Nat.le_add_right _ _
    _ < b.first := hab

/-- Settles O24: at a job each of the two requests is one reply from the account, so an accepted one is answered and nothing else; the
list's bytes are the reply's own, and a list in order has at most 32 ranges, ascending by first block. -/
theorem accountRequestsRead : Obligations.AccountRequestsRead := by
  unfold Obligations.AccountRequestsRead
  refine ⟨fun tag body s j haccepts hj => ?_, fun tag body s j haccepts hj => ?_, ReplyBody.bytes_repairs, fun ranges hranges => ?_⟩
  · exact haccepts.exec_getMap hj
  · exact haccepts.exec_getRepairs hj
  · have ⟨hlength, _, _⟩ := hranges
    exact ⟨hlength, hranges.first_lt⟩

end Sys2Proof.Machine
end

section
/-! What a command can do, said once: a request command is a request of its code, a byte or frame received is one of five things, the work
of a request is one of ten, and every command is a frame received or an event of the table. The proofs about steps go through these
inversions instead of unfolding the meanings. -/

namespace Sys2Proof.Machine

/-! ### Request commands and their codes -/

/-- What a request command does once its frame has passed the request table and the length test. -/
def performed : Instr → State → State
  | .identify tag _ => State.identify tag
  | .status tag _ => State.status tag
  | .loadJob tag body => State.loadJob tag body
  | .run tag body => State.run tag body
  | .pause tag _ => State.pause tag
  | .recover tag _ => State.recover tag
  | .abort tag _ => State.abort tag
  | .parcel tag body => State.parcel tag body
  | .getMap tag body => State.getMap tag body
  | .getRepairs tag _ => State.getRepairs tag
  | .fill tag body => State.fill tag body
  | .waive tag body => State.waive tag body
  | .repairScan tag _ => State.repairScan tag
  | .closeImage tag _ => State.closeImage tag
  | .readBlock tag body => State.readBlock tag body
  | .writeBlock tag body => State.writeBlock tag body
  | .ackNotices tag body => State.ackNotices tag body
  | .replayNotices tag _ => State.replayNotices tag
  | _ => id

/-- A request command with its tag, code and body. -/
def Instr.IsRequest (c : Instr) (tag code : Byte) (body : Bytes) : Prop :=
  c.request? = some (tag, body) ∧ requestCodeOf c = some code

/-- A request command is a request of its code, tag and body. -/
theorem exec_request {c : Instr} {tag code : Byte} {body : Bytes} (h : Instr.IsRequest c tag code body) (s : State) :
    exec c s = .next (s.request tag code body (performed c)) := by
  obtain ⟨hr, hc⟩ := h
  cases c <;> cases hr <;> cases hc <;> rfl

/-- A frame that carries one of the eighteen codes is taken as the request command of that code. -/
theorem State.takeFrame_request {c : Instr} {tag code : Byte} {body : Bytes} (h : Instr.IsRequest c tag code body) (s : State) :
    s.takeFrame tag code body = s.request tag code body (performed c) := by
  obtain ⟨hr, hc⟩ := h
  cases c <;> cases hr <;> cases hc <;> rfl

/-- A frame that carries none of the eighteen codes is answered UNKNOWN_REQUEST (R172). -/
theorem State.takeFrame_unknown {code : Byte} (h : code ∉ requestCodes) (tag : Byte) (body : Bytes) (s : State) :
    s.takeFrame tag code body = s.accept tag code body (State.reply tag .unknownRequest .empty) := by
  simp only [requestCodes, List.mem_cons, List.not_mem_nil, or_false, not_or] at h
  simp only [State.takeFrame, h, if_false]

/-- Each of the eighteen codes is that of a request command. -/
theorem exists_isRequest {code : Byte} (h : code ∈ requestCodes) (tag : Byte) (body : Bytes) :
    ∃ c, Instr.IsRequest c tag code body := by
  simp only [requestCodes, List.mem_cons, List.not_mem_nil, or_false] at h
  rcases h with rfl | rfl | rfl | rfl | rfl | rfl | rfl | rfl | rfl | rfl | rfl | rfl | rfl | rfl | rfl | rfl | rfl | rfl
  · exact ⟨.identify tag body, rfl, rfl⟩
  · exact ⟨.status tag body, rfl, rfl⟩
  · exact ⟨.loadJob tag body, rfl, rfl⟩
  · exact ⟨.run tag body, rfl, rfl⟩
  · exact ⟨.pause tag body, rfl, rfl⟩
  · exact ⟨.recover tag body, rfl, rfl⟩
  · exact ⟨.abort tag body, rfl, rfl⟩
  · exact ⟨.parcel tag body, rfl, rfl⟩
  · exact ⟨.getMap tag body, rfl, rfl⟩
  · exact ⟨.getRepairs tag body, rfl, rfl⟩
  · exact ⟨.fill tag body, rfl, rfl⟩
  · exact ⟨.waive tag body, rfl, rfl⟩
  · exact ⟨.repairScan tag body, rfl, rfl⟩
  · exact ⟨.closeImage tag body, rfl, rfl⟩
  · exact ⟨.readBlock tag body, rfl, rfl⟩
  · exact ⟨.writeBlock tag body, rfl, rfl⟩
  · exact ⟨.ackNotices tag body, rfl, rfl⟩
  · exact ⟨.replayNotices tag body, rfl, rfl⟩

/-! ### The work of a request -/

/-- The job after a request that acts on it outside the drain and quiesce tests: RECOVER, PARCEL, REPAIR_SCAN. -/
inductive JobRequested (j : Job) : Job → Prop
  | recover (h : j.phase = .faulted) : JobRequested j j.recover
  | parcel (p : Parcel) (hlen : 1 ≤ p.payload.length ∧ p.payload.length ≤ 512) (h : jobTest .parcel (some j.phase) = none) :
      JobRequested j (j.takeParcel p).1
  | repairScan (h : j.phase = .ready) : JobRequested j { j with phase := .servicing, tracker := j.tracker.startScan }

/-- The job's part of an accepted RUN or PAUSE. -/
inductive RunRequested (j : Job) : Job → Prop
  | run (limit : Limit) (h : j.phase = .ready) : RunRequested j (j.run limit)
  | pause (h : j.phase = .running) : RunRequested j j.pause

/-- What the work of a request can be, from the state that holds its table entry. -/
inductive Performed (tag : Byte) (s : State) : State → Prop
  /-- A refusal, a bad field or a request that only reads. -/
  | replied (status : ReplyStatus) (body : ReplyBody) : Performed tag s (s.reply tag status body)
  | loaded (body : Bytes) (d : Descriptor) (h : s.job = none) (hd : readDescriptor body = .ok d) :
      Performed tag s ({ s with job := some (Job.start d) }.reply tag .ok .empty)
  | ran (j j' : Job) (h : s.job = some j) (hr : RunRequested j j') :
      Performed tag s ((s.reply tag .ok .empty).settleWork ⟨j', []⟩)
  | requested (status : ReplyStatus) (body : ReplyBody) (j j' : Job) (h : s.job = some j) (hr : JobRequested j j') :
      Performed tag s ({ s with job := some j' }.reply tag status body)
  | aborted (j j' : Job) (h : s.job = some j) (hp : j.phase ≠ .aborting)
      (hj : j' = j.beginAbort.stopAtOnce s.freeIndex (s.store.outstanding .ru) (s.store.outstanding .ve)) :
      Performed tag s (({ s.drawn with job := some j' }.reply tag .started .empty).teardown)
  | filled (body : Bytes) (j : Job) (f : FillOperation) (h : s.job = some j) (hp : j.phase = .ready)
      (hf : readFill j.tracker.frontier body = .ok f) :
      Performed tag s (((s.reply tag .started .empty).settleWork (j.beginFill f)).arbitrate)
  | waived (body : Bytes) (reply : ReplyBody) (j : Job) (r : BlockRange) (h : s.job = some j) (hp : j.phase = .ready)
      (hr : readWaiveRange j.tracker.frontier body = .ok r) :
      Performed tag s ((s.reply tag .ok reply).finishWork ((Work.mk j []).account (j.tracker.waive r)))
  | closing (j : Job) (expected : Word32) (h : s.job = some j) (hp : j.phase = .ready)
      (ht : j.closeTest (s.store.outstanding .ve) = .ok expected) :
      Performed tag s (({ s with job := some (j.beginClose expected) }.reply tag .started .empty).arbitrate)
  | joined (op : StoreOp) : Performed tag s ((s.mapLink (Link.join ⟨tag, op⟩)).arbitrate)
  | acked (i : Nat) (body : ReplyBody) (h : i < s.link.notices.length) :
      Performed tag s ((s.mapLink (fun l => { l with notices := l.notices.drop (i + 1) }.enterOverflow)).reply tag .ok body)
  | replayed (body : ReplyBody) : Performed tag s
      ((s.mapLink (fun l => { l with notices := l.notices.map (fun n => { n with sent := false }) })).reply tag .ok body)

/-- A job-level request is refused with a reply, or its work is done at the job. -/
theorem State.atJobState_cases {tag : Byte} {r : JobRequest} {perform : Job → State → State} {s : State} {Q : State → Prop}
    (hl : jobTest r none ≠ none) (refused : ∀ status, Q (s.reply tag status .empty))
    (taken : ∀ j, s.job = some j → jobTest r (some j.phase) = none → Q (perform j s)) : Q (s.atJobState tag r perform) := by
  unfold State.atJobState
  cases hj : s.job with
  | none =>
    cases ht : jobTest r none with
    | none => exact absurd ht hl
    | some status => simpa [ht] using refused status
  | some j =>
    cases ht : jobTest r (some j.phase) with
    | none => simpa [ht] using taken j hj ht
    | some status => simpa [ht] using refused status

/-- A request with fields names the first that fails, or does its work. -/
theorem State.withFields_cases {α : Type} {tag : Byte} {fields : Fields α} {perform : α → State → State} {s : State} {Q : State → Prop}
    (failed : ∀ status body, Q (s.reply tag status body)) (passed : ∀ a, fields = .ok a → Q (perform a s)) :
    Q (s.withFields tag fields perform) := by
  unfold State.withFields
  cases fields with
  | error number => exact failed _ _
  | ok a => exact passed a rfl

/-- The row of RUN, FILL, WAIVE, REPAIR_SCAN and CLOSE_IMAGE takes a request in READY only (R9). -/
theorem jobTest_readyOnly {phase : JobPhase} (h : jobTest .readyOnly (some phase) = none) : phase = .ready := by
  cases phase <;> first | rfl | cases h

/-- The body of a PARCEL holds a payload of 1 to 512 bytes. -/
theorem parcelPayload_length {body : Bytes} (h : bodyLengthOk 0x20 body = true) :
    1 ≤ (parcelPayload body).length ∧ (parcelPayload body).length ≤ 512 := by
  have h' : 3 ≤ body.length ∧ body.length ≤ 514 := by simpa [bodyLengthOk] using h
  simp only [parcelPayload, List.length_drop]
  omega

/-- What the work of a request command can be. -/
theorem performed_spec {c : Instr} {tag code : Byte} {body : Bytes} (h : Instr.IsRequest c tag code body)
    (hlen : bodyLengthOk code body = true) (s : State) : Performed tag s (performed c s) := by
  obtain ⟨hr, hc⟩ := h
  cases c <;> cases hr <;> cases hc
  case identify | status => exact .replied _ _
  case loadJob =>
    show Performed tag s (s.loadJob tag body)
    unfold State.loadJob
    cases hj : s.job with
    | some j => exact .replied _ _
    | none => exact State.withFields_cases (Q := Performed tag s) (fun _ _ => .replied _ _) fun d hd => .loaded body d hj hd
  case run =>
    show Performed tag s (s.run tag body)
    unfold State.run
    refine State.atJobState_cases (Q := Performed tag s) (by simp [jobTest]) (fun _ => .replied _ _) fun j hj ht => ?_
    exact State.withFields_cases (Q := Performed tag s) (fun _ _ => .replied _ _) fun limit _ => .ran j _ hj (.run limit (jobTest_readyOnly ht))
  case pause =>
    show Performed tag s (s.pause tag)
    unfold State.pause
    refine State.atJobState_cases (Q := Performed tag s) (by simp [jobTest]) (fun _ => .replied _ _) fun j hj ht => ?_
    dsimp only
    split
    · exact .ran j _ hj (.pause ‹_›)
    · exact .replied _ _
  case recover =>
    show Performed tag s (s.recover tag)
    unfold State.recover
    refine State.atJobState_cases (Q := Performed tag s) (by simp [jobTest]) (fun _ => .replied _ _) fun j hj ht => ?_
    exact .requested _ _ j _ hj (.recover (by generalize j.phase = p at ht; cases p <;> first | rfl | cases ht))
  case abort =>
    show Performed tag s (s.abort tag)
    unfold State.abort
    refine State.atJobState_cases (Q := Performed tag s) (by simp [jobTest]) (fun _ => .replied _ _) fun j hj ht => ?_
    exact .aborted j _ hj (fun hp => by rw [hp] at ht; cases ht) rfl
  case parcel =>
    show Performed tag s (s.parcel tag body)
    unfold State.parcel
    refine State.atJobState_cases (Q := Performed tag s) (by simp [jobTest]) (fun _ => .replied _ _) fun j hj ht => ?_
    exact .requested _ _ j _ hj (.parcel _ (parcelPayload_length hlen) ht)
  case getMap =>
    show Performed tag s (s.getMap tag body)
    unfold State.getMap
    refine State.atJobState_cases (Q := Performed tag s) (by simp [jobTest]) (fun _ => .replied _ _) fun j hj ht => ?_
    exact State.withFields_cases (Q := Performed tag s) (fun _ _ => .replied _ _) fun r _ => .replied _ _
  case getRepairs =>
    show Performed tag s (s.getRepairs tag)
    unfold State.getRepairs
    exact State.atJobState_cases (Q := Performed tag s) (by simp [jobTest]) (fun _ => .replied _ _) fun j hj ht => .replied _ _
  case fill =>
    show Performed tag s (s.fill tag body)
    unfold State.fill
    refine State.atJobState_cases (Q := Performed tag s) (by simp [jobTest]) (fun _ => .replied _ _) fun j hj ht => ?_
    exact State.withFields_cases (Q := Performed tag s) (fun _ _ => .replied _ _) fun f hf => .filled body j f hj (jobTest_readyOnly ht) hf
  case waive =>
    show Performed tag s (s.waive tag body)
    unfold State.waive
    refine State.atJobState_cases (Q := Performed tag s) (by simp [jobTest]) (fun _ => .replied _ _) fun j hj ht => ?_
    exact State.withFields_cases (Q := Performed tag s) (fun _ _ => .replied _ _) fun r hf => .waived body _ j r hj (jobTest_readyOnly ht) hf
  case repairScan =>
    show Performed tag s (s.repairScan tag)
    unfold State.repairScan
    refine State.atJobState_cases (Q := Performed tag s) (by simp [jobTest]) (fun _ => .replied _ _) fun j hj ht => ?_
    exact .requested _ _ j _ hj (.repairScan (jobTest_readyOnly ht))
  case closeImage =>
    show Performed tag s (s.closeImage tag)
    unfold State.closeImage
    refine State.atJobState_cases (Q := Performed tag s) (by simp [jobTest]) (fun _ => .replied _ _) fun j hj ht => ?_
    split
    · exact .replied _ _
    · exact .closing j _ hj (jobTest_readyOnly ht) ‹_›
  case readBlock =>
    show Performed tag s (s.readBlock tag body)
    exact State.withFields_cases (Q := Performed tag s) (fun _ _ => .replied _ _) fun i _ => .joined (.read i)
  case writeBlock =>
    show Performed tag s (s.writeBlock tag body)
    exact State.withFields_cases (Q := Performed tag s) (fun _ _ => .replied _ _) fun i _ => .joined (.write i (writeData body))
  case ackNotices =>
    show Performed tag s (s.ackNotices tag body)
    unfold State.ackNotices
    split
    · exact .replied _ _
    · next i hi => exact .acked i _ (List.findIdx?_eq_some_iff_getElem.mp hi).1
  case replayNotices => exact .replayed _

/-! ### A frame received -/

/-- What a frame, a byte of a frame or a request command can come to. -/
inductive Received (s : State) : State → Prop
  | discarded (reason : DiscardReason) : Received s (s.mapLink (Link.discard reason))
  | assembling (r : Receiver) : Received s (s.receive r)
  | idle : Received s s
  /-- A request refused before the job-state test. -/
  | refused (tag code : Byte) (status : ReplyStatus) (htag : s.link.hasTag tag = false)
      (hroom : s.link.table.length < Config.tableEntries) : Received s (s.answered tag code status .empty)
  | accepted (tag code : Byte) (t : State) (hclear : s.store.clear = none) (htag : s.link.hasTag tag = false)
      (hroom : s.link.table.length < Config.tableEntries) (h : Performed tag (s.entered tag code) t) : Received s t.transmit

/-- A good request frame is discarded, refused NOT_READY, or handed on to what performs it (R171, R172). -/
theorem State.accept_cases {tag code : Byte} {body : Bytes} {perform : State → State} {s : State}
    (h : s.store.clear = none → s.link.hasTag tag = false → s.link.table.length < Config.tableEntries →
      Received s (perform (s.entered tag code)).transmit) : Received s (s.accept tag code body perform) := by
  unfold State.accept
  split
  · exact .discarded _
  · split
    · exact .discarded _
    · next htag =>
      split
      · exact .discarded _
      · next hroom =>
        have htag : s.link.hasTag tag = false := by simpa using htag
        have hroom : s.link.table.length < Config.tableEntries := Nat.lt_of_not_le hroom
        dsimp only
        by_cases hclear : s.store.clear.isSome = true
        · rw [if_pos (by exact hclear)]
          exact .refused tag code .notReady htag hroom
        · rw [if_neg (by exact hclear)]
          exact h (by simpa using hclear) htag hroom

/-- What a request of one of the eighteen codes can come to. -/
theorem State.request_received {c : Instr} {tag code : Byte} {body : Bytes} (h : Instr.IsRequest c tag code body) (s : State) :
    Received s (s.request tag code body (performed c)) := by
  refine State.accept_cases fun hclear htag hroom => ?_
  by_cases hlen : bodyLengthOk code body = true
  · rw [if_pos hlen]
    exact .accepted tag code _ hclear htag hroom (performed_spec h hlen _)
  · rw [if_neg hlen]
    exact .refused tag code .badLength htag hroom

/-- What the taking of a good request frame can come to. -/
theorem State.takeFrame_received (tag code : Byte) (body : Bytes) (s : State) : Received s (s.takeFrame tag code body) := by
  by_cases hc : code ∈ requestCodes
  · obtain ⟨c, h⟩ := exists_isRequest hc tag body
    rw [State.takeFrame_request h]
    exact State.request_received h s
  · rw [State.takeFrame_unknown hc]
    exact State.accept_cases fun _ htag hroom => .refused tag code .unknownRequest htag hroom

/-- What a complete frame can come to (R169). -/
theorem State.completeFrame_received (frame : Bytes) (s : State) : Received s (s.completeFrame frame) := by
  unfold State.completeFrame
  split
  · exact .discarded _
  · split
    · exact .discarded _
    · exact State.takeFrame_received _ _ _ _

/-- What a byte on RXD can come to (R167). -/
theorem State.receiveByte_received (b : Byte) (s : State) : Received s (s.receiveByte b) := by
  unfold State.receiveByte
  split
  · split
    · exact .assembling _
    · exact .idle
  · dsimp only
    split
    · exact .discarded _
    · split
      · exact State.completeFrame_received _ _
      · exact .assembling _

/-! ### Events -/

/-- The job's part of an event that ends without the store arbiter. -/
inductive JobEvent (s : State) (j : Job) : Work → Prop
  | takeByte (h : j.canTakeByte = true) : JobEvent s j ⟨j.takeByte, []⟩
  | suspend (h : j.signals.suspend = true) : JobEvent s j ⟨j.suspendDecoder, []⟩
  | halt (h : j.signals.halt = true) : JobEvent s j ⟨j.haltDecoder, []⟩
  | decoderStop (h : j.signals.decoderStop = true) : JobEvent s j ⟨j.abortDecoder, []⟩
  | gapExpiry (h : j.gapCanExpire = true) : JobEvent s j j.expireGap
  | quiescing (h : j.signals.quiescing = true) : JobEvent s j ⟨j.takeQuiescing, []⟩
  | unitStop (h : j.signals.unitStop = true) : JobEvent s j ⟨j.stopUnit (s.store.outstanding .ru), []⟩
  | monitorExpiry (h : j.unit.monitor.isRunning = true) : JobEvent s j j.expireMonitor
  | verifierStop (h : j.signals.verifierStop = true) : JobEvent s j ⟨j.stopVerifier (s.store.outstanding .ve), []⟩
  | scanVisit (h : j.canScan = true) : JobEvent s j j.scanVisit
  | scanStop (h : j.signals.scanStop = true) : JobEvent s j ⟨j.stopScan, []⟩

/-- The job's part of an event that ends with the store arbiter, with the store as that event leaves it. -/
inductive StoreEvent (s : State) (j : Job) : Store → Work → Prop
  | takeItem (first : Bool) (h : j.canTakeItem = true) : StoreEvent s j s.store (j.takeItem first (s.store.outstanding .ve))
  | unitRead (i : BlockIndex) (data : Option Bytes) (h : s.store.inFlight = some ⟨.ru, .read i⟩) :
      StoreEvent s j { s.store with inFlight := none } ⟨j.unitRead data, []⟩
  | unitWrite (i : BlockIndex) (content : Bytes) (h : s.store.inFlight = some ⟨.ru, .write i content⟩) :
      StoreEvent s j { s.store.writeBlock i content with inFlight := none } ((Work.mk j []).unitWrite false)
  | verifierRead (i : BlockIndex) (data : Option Bytes) (h : s.store.inFlight = some ⟨.ve, .read i⟩) :
      StoreEvent s j { s.store with inFlight := none } ((Work.mk j []).verifierRead data)

/-- What a command can come to. -/
inductive Happened (s : State) : State → Prop
  | received (t : State) (h : Received s t) : Happened s t
  | powerOn (rate : LineRate) : Happened s (s.powerOn rate)
  | pinReset (rate : LineRate) : Happened s (s.pinReset rate)
  | clearWrite : Happened s s.clearWriteComplete
  | txEnd : Happened s (s.mapLink Link.endFrame)
  | event (j : Job) (w : Work) (hj : s.job = some j) (h : JobEvent s j w) : Happened s (s.closeEvent w)
  | storeEvent (freeIndex : Nat) (j : Job) (st : Store) (w : Work) (hj : s.job = some j) (h : StoreEvent s j st w) :
      Happened s ({ s with freeIndex := freeIndex, store := st }.closeGranting w)
  | hostRead (i : BlockIndex) (status : ReplyStatus) (body : ReplyBody) (h : s.store.inFlight = some ⟨.lp, .read i⟩) :
      Happened s ((s.freeStore.endTransfer status body).arbitrate.transmit)
  | hostWrite (i : BlockIndex) (content : Bytes) (body : ReplyBody) (h : s.store.inFlight = some ⟨.lp, .write i content⟩) :
      Happened s (((s.freeStore.mapStore (fun st => st.writeBlock i content)).endTransfer .ok body).arbitrate.transmit)
  | damaged (i : BlockIndex) (content : Bytes) : Happened s (s.mapStore (fun st => st.damageBlock i content))

/-- An event at the job that happens when its condition holds. -/
theorem State.atJobWhen_happened {p : Job → Bool} {f : Job → Work} {s : State}
    (h : ∀ j, s.job = some j → p j = true → JobEvent s j (f j)) : Happened s (s.atJobWhen p f) := by
  rcases s.atJobWhen_spec p f with he | ⟨j, hj, hp, he⟩ <;> rw [he]
  · exact .received _ .idle
  · exact .event j _ hj (h j hj hp)

/-- What RU_TAKE_ITEM can come to. -/
theorem State.ruTakeItem_happened (s : State) : Happened s s.ruTakeItem := by
  unfold State.ruTakeItem
  split
  · exact .received _ .idle
  · next j hj =>
    split
    · next hc =>
      dsimp only
      split
      · exact .storeEvent (s.freeIndex + 1) j s.store _ hj (.takeItem _ hc)
      · exact .storeEvent s.freeIndex j s.store _ hj (.takeItem _ hc)
    · exact .received _ .idle

/-- What RU_READ_COMPLETE can come to. -/
theorem State.ruReadComplete_happened (s : State) : Happened s s.ruReadComplete := by
  unfold State.ruReadComplete
  split
  · next i j hf hj => exact .storeEvent s.freeIndex j _ _ hj (.unitRead i _ hf)
  · exact .received _ .idle

/-- What RU_WRITE_COMPLETE can come to. -/
theorem State.ruWriteComplete_happened (s : State) : Happened s s.ruWriteComplete := by
  unfold State.ruWriteComplete
  split
  · next i content j hf hj => exact .storeEvent s.freeIndex j _ _ hj (.unitWrite i content hf)
  · exact .received _ .idle

/-- What VE_READ_COMPLETE can come to. -/
theorem State.veReadComplete_happened (s : State) : Happened s s.veReadComplete := by
  unfold State.veReadComplete
  split
  · next i j hf hj => exact .storeEvent s.freeIndex j _ _ hj (.verifierRead i _ hf)
  · exact .received _ .idle

/-- What HOST_TRANSFER_COMPLETE can come to. -/
theorem State.hostTransferComplete_happened (s : State) : Happened s s.hostTransferComplete := by
  unfold State.hostTransferComplete
  split
  · next i hf =>
    dsimp only
    split
    · exact .hostRead i _ _ hf
    · exact .hostRead i _ _ hf
  · next i content hf => exact .hostWrite i content _ hf
  · exact .received _ .idle
  · exact .received _ .idle
  · exact .received _ .idle

/-- What a command can come to: every meaning, said once. -/
theorem exec_happened {c : Instr} {s t : State} (h : exec c s = .next t) : Happened s t := by
  have frame {c : Instr} {tag code : Byte} {body : Bytes} (hr : Instr.IsRequest c tag code body) (h : exec c s = .next t) :
      Happened s t := by
    rw [exec_request hr] at h
    cases h
    exact .received _ (State.request_received hr s)
  cases c
  case identify | status | loadJob | run | pause | recover | abort | parcel | getMap | getRepairs | fill | waive | repairScan
      | closeImage | readBlock | writeBlock | ackNotices | replayNotices => exact frame ⟨rfl, rfl⟩ h
  case powerOn => cases h; exact .powerOn _
  case pinReset => cases h; exact .pinReset _
  case clearWriteComplete => cases h; exact .clearWrite
  case frameLengthErr => cases h; exact .received _ (.discarded _)
  case frameGapExpiry =>
    change execFrameGapExpiry s = .next t at h
    unfold execFrameGapExpiry at h
    split at h <;> cases h
    · exact .received _ .idle
    · exact .received _ (.discarded _)
  case badFrame => cases h; exact .received _ (State.completeFrame_received _ _)
  case unknownRequest => cases h; exact .received _ (State.takeFrame_received _ _ _ _)
  case txFrameEnd => cases h; exact .txEnd
  case sdTakeByte => cases h; exact State.atJobWhen_happened fun j _ hp => .takeByte hp
  case sdSuspend => cases h; exact State.atJobWhen_happened fun j _ hp => .suspend hp
  case sdHalt => cases h; exact State.atJobWhen_happened fun j _ hp => .halt hp
  case sdAbortStop => cases h; exact State.atJobWhen_happened fun j _ hp => .decoderStop hp
  case gapHoldExpiry => cases h; exact State.atJobWhen_happened fun j _ hp => .gapExpiry hp
  case ruTakeItem => cases h; exact s.ruTakeItem_happened
  case ruReadComplete => cases h; exact s.ruReadComplete_happened
  case ruWriteComplete => cases h; exact s.ruWriteComplete_happened
  case ruQuiescingNotice => cases h; exact State.atJobWhen_happened fun j _ hp => .quiescing hp
  case ruAbortStop => cases h; exact State.atJobWhen_happened fun j _ hp => .unitStop hp
  case veAbortStop => cases h; exact State.atJobWhen_happened fun j _ hp => .verifierStop hp
  case scanAbortStop => cases h; exact State.atJobWhen_happened fun j _ hp => .scanStop hp
  case veReadComplete => cases h; exact s.veReadComplete_happened
  case hostTransferComplete => cases h; exact s.hostTransferComplete_happened
  case scanVisit => cases h; exact State.atJobWhen_happened fun j _ hp => .scanVisit hp
  case progressMonitorExpiry => cases h; exact State.atJobWhen_happened fun j _ hp => .monitorExpiry hp
  case rxdByteReceived => cases h; exact .received _ (State.receiveByte_received _ _)
  case blockDamaged =>
    change execBlockDamaged _ _ s = .next t at h
    unfold execBlockDamaged at h
    split at h <;> cases h
    exact .damaged _ _

/-- What a step can come to: the block idles, or the command at the front of the queue happens. -/
theorem step_happened {s t : State} (h : step s = .next t) :
    t = s ∨ ∃ rest, Happened { s with pending := rest } t := by
  unfold step at h
  cases hp : s.pending with
  | nil =>
    rw [hp] at h
    cases h
    exact Or.inl rfl
  | cons c rest =>
    rw [hp] at h
    exact Or.inr ⟨rest, exec_happened h⟩

end Sys2Proof.Machine
end

section
/-! Laws of the whole state: the queue of commands, the memory, and the laws of the link. A law of the link that the link's own
operations keep is kept by every command: the induction is made once. -/

namespace Sys2Proof.Machine

/-! ### The end of an event at the link -/

/-- What posting keeps, the notices of an event keep. -/
theorem Link.postAll_keeps {P : Link → Prop} (post : ∀ n l, P l → P (l.post n)) (ns : List Notice) :
    ∀ l : Link, P l → P (l.postAll ns) := by
  induction ns with
  | nil => exact fun _ h => h
  | cons n rest ih => exact fun l h => ih _ (post n l h)

/-- What posting keeps, the teardown keeps. -/
theorem State.teardown_keeps {P : Link → Prop} (post : ∀ n l, P l → P (l.post n)) {s : State} (h : P s.link) :
    P s.teardown.link := by
  rcases s.teardown_spec with he | ⟨j, _, _, he⟩ <;> rw [he]
  · exact h
  · exact post _ _ h

/-- What posting keeps, the settling of the job's part of an event keeps. -/
theorem State.settleWork_keeps {P : Link → Prop} (post : ∀ n l, P l → P (l.post n)) (w : Work) {s : State} (h : P s.link) :
    P (s.settleWork w).link :=
  State.teardown_keeps post (Link.postAll_keeps post _ _ h)

/-- A law of the link that each of the link's operations keeps. -/
structure LinkLaw (P : Link → Prop) : Prop where
  reset : ∀ rate, P (Link.reset rate)
  discard : ∀ reason l, P l → P (l.discard reason)
  receive : ∀ r l, P l → P { l with receiver := r }
  enter : ∀ tag code l, P l → P (l.enter tag code)
  /-- Replies made, transfers queued and taken out of the queue. -/
  answer : ∀ transfers replies l, P l → P { l with transfers := transfers, replies := replies }
  post : ∀ n l, P l → P (l.post n)
  ack : ∀ i l, i < l.notices.length → P l → P ({ l with notices := l.notices.drop (i + 1) } : Link).enterOverflow
  replay : ∀ l, P l → P { l with notices := l.notices.map (fun n => { n with sent := false }) }
  transmit : ∀ l, P l → P l.transmit
  endFrame : ∀ l, P l → P l.endFrame

section
variable {P : Link → Prop} (law : LinkLaw P)
include law

theorem LinkLaw.reply (tag : Byte) (status : ReplyStatus) (body : ReplyBody) {l : Link} (h : P l) : P (l.reply tag status body) :=
  law.answer l.transfers _ l h

theorem LinkLaw.arbitrate {s : State} (h : P s.link) : P s.arbitrate.link := by
  obtain ⟨transfers, replies, he⟩ := s.arbitrate_spec.link
  rw [he]
  exact law.answer _ _ _ h

theorem LinkLaw.settleWork (w : Work) {s : State} (h : P s.link) : P (s.settleWork w).link :=
  State.settleWork_keeps law.post w h

theorem LinkLaw.endTransfer (status : ReplyStatus) (body : ReplyBody) {s : State} (h : P s.link) :
    P (s.endTransfer status body).link := by
  unfold State.endTransfer
  split
  · exact h
  · exact law.reply _ _ _ (law.answer _ s.link.replies _ h)

/-- The work of a request keeps a law of the link. -/
theorem LinkLaw.performed {tag : Byte} {s t : State} (hp : Performed tag s t) (h : P s.link) : P t.link := by
  cases hp with
  | replied status body => exact law.reply _ _ _ h
  | loaded body d _ _ => exact law.reply _ _ _ h
  | ran j j' _ _ => exact law.settleWork _ (law.reply _ _ _ h)
  | requested status body j j' _ _ => exact law.reply _ _ _ h
  | aborted j j' _ _ _ => exact State.teardown_keeps law.post (law.reply _ _ _ h)
  | filled body j f _ _ _ => exact law.arbitrate (law.settleWork _ (law.reply _ _ _ h))
  | waived body reply j r _ _ _ => exact Link.postAll_keeps law.post _ _ (law.reply _ _ _ h)
  | closing j expected _ _ _ => exact law.arbitrate (law.reply _ _ _ h)
  | joined op => exact law.arbitrate (law.answer _ s.link.replies _ h)
  | acked i body hi => exact law.reply _ _ _ (law.ack _ _ hi h)
  | replayed body => exact law.reply _ _ _ (law.replay _ h)

/-- A frame received keeps a law of the link. -/
theorem LinkLaw.received {s t : State} (hr : Received s t) (h : P s.link) : P t.link := by
  cases hr with
  | discarded reason => exact law.discard _ _ h
  | assembling r => exact law.receive _ _ h
  | idle => exact h
  | refused tag code status _ _ => exact law.transmit _ (law.reply _ _ _ (law.enter _ _ _ h))
  | accepted tag code t _ _ _ hp => exact law.transmit _ (law.performed hp (law.enter _ _ _ h))

/-- Every command keeps a law of the link. -/
theorem LinkLaw.happened {s t : State} (hh : Happened s t) (h : P s.link) : P t.link := by
  cases hh with
  | received t hr => exact law.received hr h
  | powerOn rate => exact law.reset rate
  | pinReset rate =>
    unfold State.pinReset
    split
    · exact law.reset rate
    · exact law.transmit _ (law.post _ _ (law.reset rate))
  | clearWrite =>
    unfold State.clearWriteComplete
    split
    · exact h
    · dsimp only
      split
      · exact h
      · exact law.transmit _ (law.post _ _ h)
  | txEnd => exact law.endFrame _ h
  | event j w _ _ => exact law.transmit _ (law.settleWork w h)
  | storeEvent freeIndex j st w _ _ =>
    exact law.transmit _ (law.arbitrate (law.settleWork w (s := { s with freeIndex := freeIndex, store := st }) h))
  | hostRead i status body _ => exact law.transmit _ (law.arbitrate (law.endTransfer _ _ (s := s.freeStore) h))
  | hostWrite i content body _ => exact law.transmit _ (law.arbitrate (law.endTransfer _ _ (s := s.freeStore.mapStore _) h))
  | damaged i content => exact h

/-- Every step keeps a law of the link. -/
theorem LinkLaw.step {s t : State} (hs : step s = .next t) (h : P s.link) : P t.link := by
  rcases step_happened hs with rfl | ⟨rest, hh⟩
  · exact h
  · exact law.happened hh h

end

/-! ### The queue of commands -/

/-- The work of a request leaves the queue of commands alone. -/
theorem Performed.pending {tag : Byte} {s t : State} (h : Performed tag s t) : t.pending = s.pending := by
  cases h <;> simp

/-- A frame received leaves the queue of commands alone. -/
theorem Received.pending {s t : State} (h : Received s t) : t.pending = s.pending := by
  cases h with
  | accepted tag code t _ _ _ hp => exact hp.pending
  | _ => rfl

/-- A command leaves the queue of commands alone. -/
theorem Happened.pending {s t : State} (h : Happened s t) : t.pending = s.pending := by
  cases h with
  | received t h => exact h.pending
  | powerOn rate => rfl
  | pinReset rate => unfold State.pinReset; split <;> rfl
  | clearWrite =>
    unfold State.clearWriteComplete
    split
    · rfl
    · dsimp only
      split <;> rfl
  | txEnd => rfl
  | event j w _ _ => simp
  | storeEvent freeIndex j st w _ _ => simp
  | hostRead i status body _ => simp
  | hostWrite i content body _ => simp
  | damaged i content => rfl

/-- Settles O1: the step takes the front of the queue by its definition. -/
theorem stepRunsFront : Obligations.StepRunsFront := by
  unfold Obligations.StepRunsFront
  intro c s
  rfl

/-- Settles O2, by what a command can come to. -/
theorem queueIsTakenByStepOnly : Obligations.QueueIsTakenByStepOnly := by
  unfold Obligations.QueueIsTakenByStepOnly
  refine ⟨fun c s t h => (exec_happened h).pending, fun s h => ?_⟩
  unfold step
  rw [h]

/-! ### The memory -/

/-- The work of a request leaves the memory alone. -/
theorem Performed.memory {tag : Byte} {s t : State} (h : Performed tag s t) : t.store.memory = s.store.memory := by
  cases h <;> simp

/-- A frame received leaves the memory alone. -/
theorem Received.memory {s t : State} (h : Received s t) : t.store.memory = s.store.memory := by
  cases h with
  | accepted tag code t _ _ _ hp => exact hp.memory
  | _ => rfl

/-- A write of the start-up clear keeps the memory's canonical form. -/
theorem Store.clearWritten_wf {st : Store} (h : Memory.wf st.memory) (c : Clear) : Memory.wf (st.clearWritten c).memory := by
  have hw : Memory.wf (st.clearBlock c.next).memory := Store.writeBlock_wf h _ _
  unfold Store.clearWritten
  dsimp only
  split
  · exact hw
  · exact hw

/-- A pin reset during the start-up clear keeps the memory's canonical form. -/
theorem Store.resetInClear_wf {st : Store} (h : Memory.wf st.memory) (c : Clear) (new : Bool) :
    Memory.wf (st.resetInClear c new).memory := by
  unfold Store.resetInClear
  split
  · exact Store.writeBlock_wf h _ _
  · exact h

/-- A pin reset after the start-up clear keeps the memory's canonical form. -/
theorem Store.resetAfterClear_wf {st : Store} (h : Memory.wf st.memory) (new : Bool) :
    Memory.wf (st.resetAfterClear new).memory := by
  unfold Store.resetAfterClear
  dsimp only
  split
  · split
    · exact Store.writeBlock_wf h _ _
    · exact h
  · exact h
  · exact h

/-- Every command keeps the memory's canonical form. -/
theorem Happened.memory_wf {s t : State} (hh : Happened s t) (h : Memory.wf s.store.memory) : Memory.wf t.store.memory := by
  cases hh with
  | received t hr => rw [hr.memory]; exact h
  | powerOn rate => exact Memory.wf_nil
  | pinReset rate =>
    unfold State.pinReset
    split
    · exact Store.resetInClear_wf h _ _
    · exact Store.resetAfterClear_wf h _
  | clearWrite =>
    unfold State.clearWriteComplete
    split
    · exact h
    · dsimp only
      split <;> exact Store.clearWritten_wf h _
  | txEnd => exact h
  | event j w _ _ => simpa using h
  | storeEvent freeIndex j st w _ he =>
    rw [State.closeGranting_memory]
    cases he with
    | takeItem | unitRead | verifierRead => exact h
    | unitWrite i content _ => exact Store.writeBlock_wf h _ _
  | hostRead i status body _ => simpa using h
  | hostWrite i content body _ =>
    have hw : Memory.wf (s.freeStore.store.writeBlock i content).memory := Store.writeBlock_wf h _ _
    simpa using hw
  | damaged i content => exact Store.damageBlock_wf h _ _

/-- Settles O50: only writes and damage change the memory, and both keep its form. -/
theorem stepKeepsMemoryCanonical : Obligations.StepKeepsMemoryCanonical := by
  unfold Obligations.StepKeepsMemoryCanonical
  intro s t h hs
  rcases step_happened hs with rfl | ⟨rest, hh⟩
  · exact h
  · exact hh.memory_wf h

end Sys2Proof.Machine
end

section
/-! The laws of the link: the notice queue's order, the request table's answers, the widths of the link's counters. -/

namespace Sys2Proof.Machine

/-! ### The notice queue (R175) -/

/-- Consecutive numbers of a queue of a length, rising to the counter's. -/
def noticeNumbers (next : Byte) (length : Nat) : List Byte :=
  (List.range length).map (fun i => next - BitVec.ofNat 8 (length - i))

/-- One more number at the tail, when the counter has moved on. -/
theorem noticeNumbers_succ (next : Byte) (length : Nat) :
    noticeNumbers (next + 1) (length + 1) = noticeNumbers next length ++ [next] := by
  unfold noticeNumbers
  rw [List.range_succ, List.map_append, List.map_singleton]
  congr 1
  · refine List.map_congr_left fun i hi => ?_
    have hi : i < length := List.mem_range.mp hi
    rw [show length + 1 - i = (length - i) + 1 by omega, BitVec.ofNat_add]
    bv_omega
  · have hone : length + 1 - length = 1 := by omega
    rw [hone]
    congr 1
    bv_omega

/-- The numbers left when the oldest are removed. -/
theorem noticeNumbers_drop (next : Byte) (length k : Nat) :
    (noticeNumbers next length).drop k = noticeNumbers next (length - k) := by
  unfold noticeNumbers
  refine List.ext_getElem? fun i => ?_
  rw [List.getElem?_drop, List.getElem?_map, List.getElem?_map]
  by_cases hi : k + i < length
  · rw [List.getElem?_range hi, List.getElem?_range (by omega)]
    simp only [Option.map_some]
    rw [show length - (k + i) = length - k - i by omega]
  · rw [List.getElem?_eq_none (by simp; omega), List.getElem?_eq_none (by simp; omega)]
    rfl

/-- The law of the notice queue, by its numbers. -/
theorem Link.noticesInOrder_iff (l : Link) : l.NoticesInOrder ↔
    l.notices.length ≤ Config.noticePlaces ∧ l.notices.map (fun n => n.sequence) = noticeNumbers l.nextNotice l.notices.length :=
  Iff.rfl

/-- A change that keeps the numbers held and the counter keeps the law. -/
theorem Link.NoticesInOrder.of_sequences {l l' : Link} (h : l.NoticesInOrder)
    (hs : l'.notices.map (fun n => n.sequence) = l.notices.map (fun n => n.sequence)) (hn : l'.nextNotice = l.nextNotice) :
    l'.NoticesInOrder := by
  have hlen : l'.notices.length = l.notices.length := by simpa using congrArg List.length hs
  rw [Link.noticesInOrder_iff] at h ⊢
  rw [hs, hn, hlen]
  exact h

/-- Posting keeps the law. -/
theorem Link.NoticesInOrder.post {l : Link} (h : l.NoticesInOrder) (n : Notice) : (l.post n).NoticesInOrder := by
  rcases l.post_spec n with ⟨hroom, he⟩ | ⟨_, he⟩
  · obtain ⟨_, hseq⟩ := l.noticesInOrder_iff.mp h
    rw [he, Link.noticesInOrder_iff]
    simp only [List.length_append, List.length_singleton, List.map_append, List.map_singleton]
    exact ⟨hroom, by rw [noticeNumbers_succ, hseq]⟩
  · rw [he]
    exact h

/-- Removing the oldest notices keeps the law. -/
theorem Link.NoticesInOrder.drop {l : Link} (h : l.NoticesInOrder) (k : Nat) :
    ({ l with notices := l.notices.drop k } : Link).NoticesInOrder := by
  obtain ⟨hlen, hseq⟩ := l.noticesInOrder_iff.mp h
  rw [Link.noticesInOrder_iff]
  simp only [List.length_drop, List.map_drop]
  exact ⟨by omega, by rw [hseq, noticeNumbers_drop]⟩

/-- Queueing NOTICE_OVERFLOW keeps the law. -/
theorem Link.NoticesInOrder.enterOverflow {l : Link} (h : l.NoticesInOrder) : l.enterOverflow.NoticesInOrder := by
  unfold Link.enterOverflow
  split
  · exact h
  · exact (h.post _).of_sequences rfl rfl

/-- The transmit arbiter keeps the law. -/
theorem Link.NoticesInOrder.transmit {l : Link} (h : l.NoticesInOrder) : l.transmit.NoticesInOrder :=
  h.of_sequences l.transmit_sequences l.transmit_nextNotice

/-- A frame's end, where it may be: nothing, or the arbiter's choice at a link whose frame has ended. -/
theorem Link.endFrame_spec (l : Link) :
    (l.sending = none ∧ l.endFrame = l) ∨
    (∃ r, l.sending = some (.reply r) ∧ l.endFrame = ({ l with
      sending := none
      replies := l.replies.drop 1
      table := l.table.filter (fun e => e.tag != r.tag)
      replyRun := nextReplyRun l.replyRun } : Link).transmit) ∨
    ∃ n number, l.sending = some (.notice n number) ∧ l.endFrame = ({ l with sending := none, replyRun := 0 } : Link).transmit := by
  unfold Link.endFrame
  split
  · next h => exact Or.inl ⟨h, rfl⟩
  · next r h => exact Or.inr (Or.inl ⟨r, h, rfl⟩)
  · next n number h => exact Or.inr (Or.inr ⟨n, number, h, rfl⟩)

/-- The order of the notice queue is a law of the link. -/
theorem linkLaw_noticesInOrder : LinkLaw Link.NoticesInOrder where
  reset _ := ⟨Nat.zero_le _, rfl⟩
  discard _ _ h := h
  receive _ _ h := h
  enter _ _ _ h := h
  answer _ _ _ h := h
  post n _ h := h.post n
  ack i _ _ h := (h.drop (i + 1)).enterOverflow
  replay _ h := h.of_sequences (by simp [Function.comp_def]) rfl
  transmit _ h := h.transmit
  endFrame l h := by
    rcases l.endFrame_spec with ⟨_, he⟩ | ⟨r, _, he⟩ | ⟨n, number, _, he⟩ <;> rw [he]
    · exact h
    · exact Link.NoticesInOrder.transmit (h.of_sequences rfl rfl)
    · exact Link.NoticesInOrder.transmit (h.of_sequences rfl rfl)

/-- Settles O51: the order of the notice queue is a law of the link. -/
theorem stepKeepsNoticesInOrder : Obligations.StepKeepsNoticesInOrder := by
  unfold Obligations.StepKeepsNoticesInOrder
  exact fun s t h hs => linkLaw_noticesInOrder.step hs h

/-! ### The link's counters (R170, R174, R178) -/

/-- Counting a discarded frame keeps the six counters in their width. -/
theorem LinkErrors.count_inWidth (reason : DiscardReason) {l : Link} (h : l.CountersInWidth) :
    ({ l with errors := l.errors.count reason } : Link).CountersInWidth := by
  obtain ⟨hl, hg, hc, hk, ht, ho, hd, hr⟩ := h
  cases reason
  · exact ⟨saturate_le _ _, hg, hc, hk, ht, ho, hd, hr⟩
  · exact ⟨hl, saturate_le _ _, hc, hk, ht, ho, hd, hr⟩
  · exact ⟨hl, hg, saturate_le _ _, hk, ht, ho, hd, hr⟩
  · exact ⟨hl, hg, hc, saturate_le _ _, ht, ho, hd, hr⟩
  · exact ⟨hl, hg, hc, hk, saturate_le _ _, ho, hd, hr⟩
  · exact ⟨hl, hg, hc, hk, ht, saturate_le _ _, hd, hr⟩

/-- A change that keeps the discard counters, with the dropped count and the reply run in their widths, keeps the law. -/
theorem Link.CountersInWidth.of_errors {l l' : Link} (h : l.CountersInWidth) (he : l'.errors = l.errors)
    (hd : l'.dropped ≤ byteCounterMax) (hr : l'.replyRun ≤ 4) : l'.CountersInWidth := by
  obtain ⟨h1, h2, h3, h4, h5, h6, _, _⟩ := h
  unfold Link.CountersInWidth
  rw [he]
  exact ⟨h1, h2, h3, h4, h5, h6, hd, hr⟩

theorem Link.CountersInWidth.dropped_le {l : Link} (h : l.CountersInWidth) : l.dropped ≤ byteCounterMax := by
  obtain ⟨_, _, _, _, _, _, hd, _⟩ := h
  exact hd

theorem Link.CountersInWidth.replyRun_le {l : Link} (h : l.CountersInWidth) : l.replyRun ≤ 4 := by
  obtain ⟨_, _, _, _, _, _, _, hr⟩ := h
  exact hr

/-- Posting keeps the counters in their widths. -/
theorem Link.CountersInWidth.post {l : Link} (h : l.CountersInWidth) (n : Notice) : (l.post n).CountersInWidth := by
  refine h.of_errors (l.post_errors n) ?_ (by rw [Link.post_replyRun]; exact h.replyRun_le)
  rcases l.post_spec n with ⟨_, he⟩ | ⟨_, he⟩ <;> rw [he]
  · exact h.dropped_le
  · exact saturate_le _ _

/-- The transmit arbiter keeps the counters in their widths. -/
theorem Link.CountersInWidth.transmit {l : Link} (h : l.CountersInWidth) : l.transmit.CountersInWidth :=
  h.of_errors l.transmit_errors (by rw [Link.transmit_dropped]; exact h.dropped_le)
    (by rw [Link.transmit_replyRun]; exact h.replyRun_le)

/-- The widths of the counters are a law of the link. -/
theorem linkLaw_countersInWidth : LinkLaw Link.CountersInWidth where
  reset _ := by simp [Link.CountersInWidth, Link.reset, LinkErrors.zero]
  discard reason _ h := LinkErrors.count_inWidth reason h
  receive _ _ h := h
  enter _ _ _ h := h
  answer _ _ _ h := h
  post n _ h := h.post n
  ack i l _ h := by
    unfold Link.enterOverflow
    split
    · exact h
    · exact Link.CountersInWidth.of_errors (Link.CountersInWidth.post (l := { l with notices := l.notices.drop (i + 1) }) h _)
        rfl (Nat.zero_le _) (Link.CountersInWidth.post (l := { l with notices := l.notices.drop (i + 1) }) h _).replyRun_le
  replay _ h := h
  transmit _ h := h.transmit
  endFrame l h := by
    rcases l.endFrame_spec with ⟨_, he⟩ | ⟨r, _, he⟩ | ⟨n, number, _, he⟩ <;> rw [he]
    · exact h
    · exact Link.CountersInWidth.transmit (h.of_errors rfl h.dropped_le (Nat.min_le_right _ _))
    · exact Link.CountersInWidth.transmit (h.of_errors rfl h.dropped_le (Nat.zero_le _))

/-! ### One answer for each request (R158, R171, R173) -/

/-- The tags that a reply or a transfer answers. -/
def Link.answerTags (l : Link) : List Byte := l.replies.map (fun r => r.tag) ++ l.transfers.map (fun t => t.tag)

/-- The request table as `OneAnswerEach` has it, but for one request whose answer is still to be made. -/
def Link.Owes (tag : Byte) (l : Link) : Prop :=
  l.table.length ≤ Config.tableEntries ∧ (l.table.map (fun e => e.tag)).Nodup ∧
    (l.answerTags ++ [tag]).Perm (l.table.map (fun e => e.tag)) ∧
    ∀ r, l.sending = some (.reply r) → l.replies.head? = some r

/-- A change that keeps the table, the answers to come and the frame being sent keeps the law. -/
theorem Link.OneAnswerEach.of_eq {l l' : Link} (h : l.OneAnswerEach) (ht : l'.table = l.table) (hr : l'.replies = l.replies)
    (hx : l'.transfers = l.transfers) (hs : l'.sending = l.sending) : l'.OneAnswerEach := by
  unfold Link.OneAnswerEach
  rw [ht, hr, hx, hs]
  exact h

/-- A change that keeps the table, the answers to come and the frame being sent keeps what is owed. -/
theorem Link.Owes.of_eq {tag : Byte} {l l' : Link} (h : l.Owes tag) (ht : l'.table = l.table) (hr : l'.replies = l.replies)
    (hx : l'.transfers = l.transfers) (hs : l'.sending = l.sending) : l'.Owes tag := by
  unfold Link.Owes Link.answerTags
  rw [ht, hr, hx, hs]
  exact h

/-- A request that takes an entry is owed an answer. -/
theorem Link.OneAnswerEach.enter {tag : Byte} {l : Link} (h : l.OneAnswerEach) (htag : l.hasTag tag = false)
    (hroom : l.table.length < Config.tableEntries) (code : Byte) : (l.enter tag code).Owes tag := by
  obtain ⟨_, hnodup, hperm, hsend⟩ := h
  have hnew : tag ∉ l.table.map (fun e => e.tag) := by
    intro hmem
    obtain ⟨e, he, rfl⟩ := List.mem_map.mp hmem
    have := List.any_eq_false.mp htag e he
    simp at this
  refine ⟨by simpa using hroom, ?_, ?_, hsend⟩
  · rw [Link.enter_table, List.map_append, List.map_singleton]
    exact List.Nodup.append hnodup (List.nodup_singleton _) (by simpa using hnew)
  · rw [Link.enter_table, List.map_append, List.map_singleton]
    exact hperm.append_right _

/-- A frame being sent stays the oldest reply when a reply is made. -/
theorem head?_append_of_some {α : Type} {xs ys : List α} {x : α} (h : xs.head? = some x) : (xs ++ ys).head? = some x := by
  cases xs with
  | nil => cases h
  | cons a rest => exact h

/-- The reply owed. -/
theorem Link.Owes.reply {tag : Byte} {l : Link} (h : l.Owes tag) (status : ReplyStatus) (body : ReplyBody) :
    (l.reply tag status body).OneAnswerEach := by
  obtain ⟨hlen, hnodup, hperm, hsend⟩ := h
  refine ⟨hlen, hnodup, List.Perm.trans ?_ hperm, fun r hr => head?_append_of_some (hsend r hr)⟩
  rw [Link.reply_replies, List.map_append, List.append_assoc, Link.answerTags, List.append_assoc]
  exact List.perm_append_comm.append_left _

/-- The transfer that will make the reply owed. -/
theorem Link.Owes.join {tag : Byte} {l : Link} (h : l.Owes tag) (op : StoreOp) : (l.join ⟨tag, op⟩).OneAnswerEach := by
  obtain ⟨hlen, hnodup, hperm, hsend⟩ := h
  refine ⟨hlen, hnodup, ?_, hsend⟩
  rw [Link.answerTags, List.append_assoc] at hperm
  simpa [Link.join] using hperm

/-- Posting keeps the law. -/
theorem Link.OneAnswerEach.post {l : Link} (h : l.OneAnswerEach) (n : Notice) : (l.post n).OneAnswerEach :=
  h.of_eq (l.post_table n) (l.post_replies n) (l.post_transfers n) (l.post_sending n)

/-- The transmit arbiter keeps the law: a reply it starts is the oldest. -/
theorem Link.OneAnswerEach.transmit {l : Link} (h : l.OneAnswerEach) : l.transmit.OneAnswerEach := by
  have ⟨hlen, hnodup, hperm, _⟩ := h
  rcases l.transmit_spec with he | ⟨r, rest, _, hr, he⟩ | ⟨n, _, _, he⟩ <;> rw [he]
  · exact h
  · exact ⟨hlen, hnodup, hperm, fun r' hr' => by cases hr'; simp [hr]⟩
  · exact ⟨hlen, hnodup, hperm, fun r' hr' => by cases hr'⟩

/-- The transfer at the head of LP's queue becomes its reply. -/
theorem State.endTransfer_oneAnswerEach {s : State} (h : s.link.OneAnswerEach) (status : ReplyStatus) (body : ReplyBody) :
    (s.endTransfer status body).link.OneAnswerEach := by
  unfold State.endTransfer
  split
  · exact h
  · next t rest ht =>
    obtain ⟨hlen, hnodup, hperm, hsend⟩ := h
    refine ⟨hlen, hnodup, List.Perm.trans ?_ hperm, fun r hr => head?_append_of_some (hsend r hr)⟩
    simp [ht]

/-- The arbiter's refusals keep the law. -/
theorem State.arbitrateWithin_oneAnswerEach (n : Nat) : ∀ s : State, s.link.OneAnswerEach → (s.arbitrateWithin n).link.OneAnswerEach := by
  induction n with
  | zero => exact fun _ h => h
  | succ n ih =>
    intro s h
    unfold State.arbitrateWithin
    split
    · exact h
    · split
      · exact h
      · next who op _ =>
        split
        · exact ih _ (State.endTransfer_oneAnswerEach (s := s.mapStore _) h _ _)
        · cases who <;> exact h

theorem State.arbitrate_oneAnswerEach {s : State} (h : s.link.OneAnswerEach) : s.arbitrate.link.OneAnswerEach :=
  State.arbitrateWithin_oneAnswerEach _ s h

theorem State.settleWork_oneAnswerEach (w : Work) {s : State} (h : s.link.OneAnswerEach) : (s.settleWork w).link.OneAnswerEach :=
  State.settleWork_keeps (P := Link.OneAnswerEach) (fun n _ h => h.post n) w h

/-- The work of a request makes the answer it owes. -/
theorem Performed.oneAnswerEach {tag : Byte} {s t : State} (hp : Performed tag s t) (h : s.link.Owes tag) : t.link.OneAnswerEach := by
  cases hp with
  | replied status body => exact h.reply _ _
  | loaded body d _ _ => exact h.reply _ _
  | ran j j' _ _ => exact State.settleWork_oneAnswerEach _ (h.reply _ _)
  | requested status body j j' _ _ => exact h.reply _ _
  | aborted j j' _ _ _ => exact State.teardown_keeps (P := Link.OneAnswerEach) (fun n _ h => h.post n) (h.reply _ _)
  | filled body j f _ _ _ => exact State.arbitrate_oneAnswerEach (State.settleWork_oneAnswerEach _ (h.reply _ _))
  | waived body reply j r _ _ _ => exact Link.postAll_keeps (P := Link.OneAnswerEach) (fun n _ h => h.post n) _ _ (h.reply _ _)
  | closing j expected _ _ _ => exact State.arbitrate_oneAnswerEach (h.reply _ _)
  | joined op => exact State.arbitrate_oneAnswerEach (h.join op)
  | acked i body hi =>
    refine Link.Owes.reply (Link.Owes.of_eq h ?_ ?_ ?_ ?_) _ _ <;>
      simp only [State.mapLink_link, Link.enterOverflow] <;> split <;> simp
  | replayed body => exact Link.Owes.reply (Link.Owes.of_eq h rfl rfl rfl rfl) _ _

/-- A frame received keeps one answer for each request. -/
theorem Received.oneAnswerEach {s t : State} (hr : Received s t) (h : s.link.OneAnswerEach) : t.link.OneAnswerEach := by
  cases hr with
  | discarded reason => exact h
  | assembling r => exact h
  | idle => exact h
  | refused tag code status htag hroom => exact ((h.enter htag hroom code).reply _ _).transmit
  | accepted tag code t _ htag hroom hp => exact (hp.oneAnswerEach (h.enter htag hroom code)).transmit

/-- A frame's end on TXD: the reply sent is the oldest, and leaves with its request. -/
theorem Link.OneAnswerEach.endFrame {l : Link} (h : l.OneAnswerEach) : l.endFrame.OneAnswerEach := by
  have ⟨hlen, hnodup, hperm, hsend⟩ := h
  rcases l.endFrame_spec with ⟨_, he⟩ | ⟨r, hr, he⟩ | ⟨n, number, _, he⟩ <;> rw [he]
  · exact h
  · refine Link.OneAnswerEach.transmit ⟨?_, ?_, ?_, fun r' hr' => by cases hr'⟩
    · exact (List.length_filter_le _ _).trans hlen
    · exact List.Nodup.sublist (List.Sublist.map _ List.filter_sublist) hnodup
    · have hhead := hsend r hr
      cases hrep : l.replies with
      | nil => rw [hrep] at hhead; cases hhead
      | cons r' rest =>
        rw [hrep] at hhead hperm
        cases hhead
        have hnot : r.tag ∉ rest.map (fun r => r.tag) ++ l.transfers.map (fun t => t.tag) := by
          have := hperm.nodup_iff.mpr hnodup
          exact (List.nodup_cons.mp this).1
        have hkeep : (rest.map (fun r => r.tag) ++ l.transfers.map (fun t => t.tag)).filter (fun x => x != r.tag)
            = rest.map (fun r => r.tag) ++ l.transfers.map (fun t => t.tag) :=
          List.filter_eq_self.mpr fun x hx => by
            have : x ≠ r.tag := fun hxr => hnot (hxr ▸ hx)
            simpa using this
        have hfiltered := hperm.filter (fun x => x != r.tag)
        rw [List.map_cons, List.cons_append, List.filter_cons_of_neg (by simp), hkeep, List.filter_map] at hfiltered
        exact hfiltered
  · exact Link.OneAnswerEach.transmit ⟨hlen, hnodup, hperm, fun r' hr' => by cases hr'⟩

/-- The link of a reset has no request. -/
theorem Link.reset_oneAnswerEach (rate : LineRate) : (Link.reset rate).OneAnswerEach :=
  ⟨Nat.zero_le _, List.nodup_nil, List.Perm.refl _, fun _ h => by cases h⟩

/-- Every command keeps one answer for each request. -/
theorem Happened.oneAnswerEach {s t : State} (hh : Happened s t) (h : s.link.OneAnswerEach) : t.link.OneAnswerEach := by
  cases hh with
  | received t hr => exact hr.oneAnswerEach h
  | powerOn rate => exact Link.reset_oneAnswerEach rate
  | pinReset rate =>
    unfold State.pinReset
    split
    · exact Link.reset_oneAnswerEach rate
    · exact ((Link.reset_oneAnswerEach rate).post _).transmit
  | clearWrite =>
    unfold State.clearWriteComplete
    split
    · exact h
    · dsimp only
      split
      · exact h
      · exact Link.OneAnswerEach.transmit (Link.OneAnswerEach.post h _)
  | txEnd => exact h.endFrame
  | event j w _ _ => exact Link.OneAnswerEach.transmit (State.settleWork_oneAnswerEach w h)
  | storeEvent freeIndex j st w _ _ =>
    exact Link.OneAnswerEach.transmit (State.arbitrate_oneAnswerEach
      (State.settleWork_oneAnswerEach w (s := { s with freeIndex := freeIndex, store := st }) h))
  | hostRead i status body _ =>
    exact Link.OneAnswerEach.transmit (State.arbitrate_oneAnswerEach (State.endTransfer_oneAnswerEach (s := s.freeStore) h _ _))
  | hostWrite i content body _ =>
    exact Link.OneAnswerEach.transmit (State.arbitrate_oneAnswerEach (State.endTransfer_oneAnswerEach (s := s.freeStore.mapStore _) h _ _))
  | damaged i content => exact h

/-- Settles O52: a request that takes an entry is owed an answer, and its work makes it; a reply leaves with its request. -/
theorem stepKeepsOneAnswerEach : Obligations.StepKeepsOneAnswerEach := by
  unfold Obligations.StepKeepsOneAnswerEach
  intro s t h hs
  rcases step_happened hs with rfl | ⟨rest, hh⟩
  · exact h
  · exact hh.oneAnswerEach h

end Sys2Proof.Machine
end

section
/-! The job and the transaction in flight across a command: the inversion of a command for the laws of the job. Every command leaves the
job as it is, removes it, creates it, or does one of the event's or request's works at it and settles it; then the store arbiter may grant. -/

namespace Sys2Proof.Machine

/-- Whether a transaction in flight is a requester's. -/
def holdsFlight (flight : Option Transaction) (who : Requester) : Bool :=
  match flight with
  | some t => t.requester == who
  | none => false

/-- A requester's transaction is outstanding when the one in flight is its. -/
theorem Store.outstanding_eq (st : Store) (who : Requester) : st.outstanding who = holdsFlight st.inFlight who := by
  unfold Store.outstanding holdsFlight
  cases st.inFlight <;> rfl

/-- What the laws of the job read of the state: whether the start-up clear runs, the transaction in flight, and the job. -/
structure Core where
  clearing : Bool
  flight : Option Transaction
  job : Option Job

/-- The part of the state that the laws of the job read. -/
def State.core (s : State) : Core := ⟨s.store.clear.isSome, s.store.inFlight, s.job⟩

/-- The job after the teardown test: gone when the teardown is complete (R150). -/
def Job.left (j : Job) : Option Job := if j.tornDown then none else some j

/-- What the arbiter's choice does to the job and the transaction in flight. -/
inductive Core.Granted : Core → Core → Prop
  | nothing (c : Core) : Core.Granted c c
  | unit (j : Job) (op : StoreOp) (h : j.unit.waiting = some op) :
      Core.Granted ⟨false, none, some j⟩ ⟨false, some ⟨.ru, op⟩, some (j.mapUnit (fun u => { u with waiting := none }))⟩
  | verifier (j : Job) (i : BlockIndex) (h : j.verifier.waiting = some i) :
      Core.Granted ⟨false, none, some j⟩
        ⟨false, some ⟨.ve, .read i⟩, some (j.mapVerifier (fun v => { v with waiting := none }))⟩
  | host (op : StoreOp) (job : Option Job) : Core.Granted ⟨false, none, job⟩ ⟨false, some ⟨.lp, op⟩, job⟩

/-- A chosen request is one that waits. -/
theorem State.chosen_waiting {s : State} {who : Requester} {op : StoreOp} (h : s.chosen = some (who, op)) :
    s.waitingOp who = some op := by
  unfold State.chosen at h
  obtain ⟨who', _, h'⟩ := List.exists_of_findSome?_eq_some h
  cases hw : s.waitingOp who' with
  | none => simp [hw] at h'
  | some op' =>
    simp only [hw, Option.map_some, Option.some.injEq, Prod.mk.injEq] at h'
    obtain ⟨rfl, rfl⟩ := h'
    exact hw

/-- A grant at a free store. -/
theorem State.grant_core {s : State} {who : Requester} {op : StoreOp} (hf : s.store.inFlight = none) (hc : s.store.clear = none)
    (h : s.waitingOp who = some op) : s.core.Granted (s.grant who op).core := by
  have hcore : s.core = ⟨false, none, s.job⟩ := by simp [State.core, hf, hc]
  have hclear (who : Requester) (op : StoreOp) : (s.grant who op).store.clear.isSome = false := by
    rw [(s.grant_spec who op).clear, hc]
    rfl
  cases who with
  | ru =>
    obtain ⟨j, hj, hw⟩ := Option.bind_eq_some_iff.mp h
    have hafter : (s.grant .ru op).core = ⟨false, some ⟨.ru, op⟩, some (j.mapUnit (fun u => { u with waiting := none }))⟩ := by
      rw [State.core, hclear]
      simp [State.grant, State.takeRequest, hj]
    rw [hcore, hj, hafter]
    exact .unit j op hw
  | ve =>
    obtain ⟨i, hi, rfl⟩ := Option.map_eq_some_iff.mp h
    obtain ⟨j, hj, hw⟩ := Option.bind_eq_some_iff.mp hi
    have hafter : (s.grant .ve (.read i)).core
        = ⟨false, some ⟨.ve, .read i⟩, some (j.mapVerifier (fun v => { v with waiting := none }))⟩ := by
      rw [State.core, hclear]
      simp [State.grant, State.takeRequest, hj]
    rw [hcore, hj, hafter]
    exact .verifier j i hw
  | lp =>
    have hafter : (s.grant .lp op).core = ⟨false, some ⟨.lp, op⟩, s.job⟩ := by
      rw [State.core, hclear]
      rfl
    rw [hcore, hafter]
    exact .host op s.job

/-- What the arbiter can do to the job and the transaction in flight. -/
theorem State.arbitrateWithin_core (n : Nat) : ∀ s : State, s.core.Granted (s.arbitrateWithin n).core := by
  induction n with
  | zero => exact fun s => .nothing _
  | succ n ih =>
    intro s
    unfold State.arbitrateWithin
    split
    · exact .nothing _
    · next hbusy =>
      have hbusy : s.store.inFlight = none ∧ s.store.clear = none := by simpa using hbusy
      obtain ⟨hf, hc⟩ := hbusy
      split
      · exact .nothing _
      · next who op hchosen =>
        split
        · have hsame : (s.refuseLocked op).core = s.core := by
            obtain ⟨_, _, hs, hj, _⟩ := s.refuseLocked_spec op
            simp [State.core, hs, hj]
          rw [← hsame]
          exact ih _
        · exact State.grant_core hf hc (State.chosen_waiting hchosen)

theorem State.arbitrate_core (s : State) : s.core.Granted s.arbitrate.core := State.arbitrateWithin_core _ s

/-- The teardown at the core: the job is gone when it is complete. -/
theorem State.teardown_core {s : State} {j : Job} (h : s.job = some j) :
    s.teardown.core = ⟨s.core.clearing, s.core.flight, j.left⟩ := by
  have he : s.teardown = if j.tornDown then { s with job := none }.post (.aborted j.descriptor.jobId) else s := by
    unfold State.teardown
    rw [h]
  rw [he, Job.left]
  cases j.tornDown
  · rw [if_neg (by decide), if_neg (by decide), ← h]
    rfl
  · rw [if_pos rfl, if_pos rfl]
    rfl

/-- The settling of the job's part of an event at the core. -/
theorem State.settleWork_core (w : Work) (s : State) :
    (s.settleWork w).core = ⟨s.core.clearing, s.core.flight, (w.settle (holdsFlight s.store.inFlight .ru)).job.left⟩ := by
  unfold State.settleWork
  rw [State.teardown_core (State.finishWork_job _ _), Store.outstanding_eq]
  rfl

/-- A LOCKED refusal or a completed transfer leaves job and transaction as they are. -/
theorem State.endTransfer_core (status : ReplyStatus) (body : ReplyBody) (s : State) :
    (s.endTransfer status body).core = s.core := by
  simp [State.core]

/-! ### The inversion -/

/-- A work at the job that JC's tests settle, with the transaction in flight that it leaves. -/
inductive Settles (s : State) (j : Job) : Option Transaction → Work → Prop
  | event (w : Work) (h : JobEvent s j w) : Settles s j s.store.inFlight w
  | store (st : Store) (w : Work) (h : StoreEvent s j st w) : Settles s j st.inFlight w
  | ran (j' : Job) (h : RunRequested j j') : Settles s j s.store.inFlight ⟨j', []⟩
  | filled (body : Bytes) (f : FillOperation) (hp : j.phase = .ready) (hf : readFill j.tracker.frontier body = .ok f) :
      Settles s j s.store.inFlight (j.beginFill f)

/-- A work at the job that is not settled: no drain or quiesce can stand in the states that take it. -/
inductive Direct (s : State) (j : Job) : Job → Prop
  | requested (j' : Job) (h : JobRequested j j') : Direct s j j'
  | waived (body : Bytes) (r : BlockRange) (hp : j.phase = .ready) (hr : readWaiveRange j.tracker.frontier body = .ok r) :
      Direct s j { j with tracker := (j.tracker.waive r).tracker }
  | closing (expected : Word32) (hp : j.phase = .ready) (ht : j.closeTest (holdsFlight s.store.inFlight .ve) = .ok expected) :
      Direct s j (j.beginClose expected)

/-- What a command can come to at the core, before the arbiter's choice. -/
inductive CoreNext (s : State) : Core → Prop
  | kept : CoreNext s s.core
  | freed (op : StoreOp) (h : s.store.inFlight = some ⟨.lp, op⟩) : CoreNext s ⟨s.core.clearing, none, s.job⟩
  | gone (clearing : Bool) (flight : Option Transaction)
      (h : flight = none ∨ s.store.clear.isSome = true ∧ flight = s.store.inFlight) : CoreNext s ⟨clearing, flight, none⟩
  | cleared (h : s.store.clear.isSome = true) : CoreNext s ⟨false, none, s.job⟩
  | loaded (body : Bytes) (d : Descriptor) (hc : s.store.clear = none) (h : s.job = none) (hd : readDescriptor body = .ok d) :
      CoreNext s ⟨false, s.store.inFlight, some (Job.start d)⟩
  | direct (j j' : Job) (hj : s.job = some j) (h : Direct s j j') : CoreNext s ⟨s.core.clearing, s.store.inFlight, some j'⟩
  | settled (j : Job) (w : Work) (flight : Option Transaction) (hj : s.job = some j) (h : Settles s j flight w) :
      CoreNext s ⟨s.core.clearing, flight, (w.settle (holdsFlight flight .ru)).job.left⟩
  | aborted (j : Job) (hj : s.job = some j) (hp : j.phase ≠ .aborting) : CoreNext s ⟨s.core.clearing, s.store.inFlight,
      (j.beginAbort.stopAtOnce s.freeIndex (holdsFlight s.store.inFlight .ru) (holdsFlight s.store.inFlight .ve)).left⟩

/-- What the work of a request can come to at the core. -/
theorem Performed.core {tag code : Byte} {s t : State} (hclear : s.store.clear = none) (hp : Performed tag (s.entered tag code) t) :
    ∃ m, CoreNext s m ∧ m.Granted t.core := by
  have hcore : (s.entered tag code).core = s.core := rfl
  have hc : s.core.clearing = false := by simp [State.core, hclear]
  cases hp with
  | replied status body => exact ⟨_, .kept, .nothing _⟩
  | loaded body d hj hd =>
    refine ⟨_, .loaded body d hclear hj hd, ?_⟩
    rw [← hc]
    exact .nothing _
  | ran j j' hj hr =>
    refine ⟨_, .settled j _ _ hj (.ran j' hr), ?_⟩
    rw [State.settleWork_core]
    exact .nothing _
  | requested status body j j' hj hr => exact ⟨_, .direct j j' hj (.requested j' hr), .nothing _⟩
  | aborted j j' hj hp hj' =>
    refine ⟨_, .aborted j hj hp, ?_⟩
    rw [State.teardown_core (j := j') rfl, hj', Store.outstanding_eq, Store.outstanding_eq]
    exact .nothing _
  | filled body j f hj hp hf =>
    refine ⟨_, .settled j _ _ hj (.filled body f hp hf), ?_⟩
    have := State.arbitrate_core (((s.entered tag code).reply tag .started .empty).settleWork (j.beginFill f))
    rw [State.settleWork_core] at this
    exact this
  | waived body reply j r hj hp hr =>
    refine ⟨_, .direct j _ hj (.waived body r hp hr), ?_⟩
    obtain ⟨ns, he, _⟩ := Work.account_spec (j.tracker.waive r) ⟨j, []⟩
    rw [he]
    exact .nothing _
  | closing j expected hj hp ht =>
    rw [Store.outstanding_eq] at ht
    exact ⟨_, .direct j _ hj (.closing expected hp ht), State.arbitrate_core
      ({ s.entered tag code with job := some (j.beginClose expected) }.reply tag .started .empty)⟩
  | joined op => exact ⟨_, .kept, State.arbitrate_core ((s.entered tag code).mapLink (Link.join ⟨tag, op⟩))⟩
  | acked i body hi => exact ⟨_, .kept, .nothing _⟩
  | replayed body => exact ⟨_, .kept, .nothing _⟩

/-- What a pin reset comes to at the core. -/
theorem State.pinReset_core (rate : LineRate) (s : State) : CoreNext s (s.pinReset rate).core := by
  unfold State.pinReset
  cases hc : s.store.clear with
  | none =>
    have hclear (new : Bool) : (s.store.resetAfterClear new).clear = none := by
      unfold Store.resetAfterClear
      dsimp only
      split
      · split
        · exact hc
        · exact hc
      · exact hc
      · exact hc
    have hend : (({ s.drawn with
        link := Link.reset rate
        store := s.store.resetAfterClear (Config.resetKeepsNew s.freeIndex)
        job := none } : State).post (.ready .pin)).transmit.core = ⟨false, none, none⟩ := by
      simp only [State.core, State.transmit_store, State.post_store, State.transmit_job, State.post_job, hclear]
      rfl
    dsimp only
    rw [hend]
    exact .gone false none (Or.inl rfl)
  | some c =>
    refine .gone _ _ (Or.inr ⟨by rw [hc]; rfl, ?_⟩)
    dsimp only [Store.resetInClear]
    split <;> rfl

/-- What a write of the start-up clear comes to at the core. -/
theorem State.clearWriteComplete_core (s : State) : CoreNext s s.clearWriteComplete.core := by
  unfold State.clearWriteComplete
  cases hc : s.store.clear with
  | none => exact .kept
  | some c =>
    have hsome : s.store.clear.isSome = true := by rw [hc]; rfl
    by_cases hn : c.next + 1 < Config.storeBlocks
    · have hgo : (s.mapStore (Store.clearWritten c)).core = s.core := by
        simp [State.core, Store.clearWritten, hn, hc, Store.clearBlock]
      have hon : (s.mapStore (Store.clearWritten c)).store.clear.isSome = true := by simp [Store.clearWritten, hn]
      dsimp only
      rw [if_pos hon, hgo]
      exact .kept
    · have hoff : ¬ (s.mapStore (Store.clearWritten c)).store.clear.isSome = true := by simp [Store.clearWritten, hn]
      have hend : (((s.mapStore (Store.clearWritten c)).post (.ready .powerOn)).transmit).core = ⟨false, none, s.job⟩ := by
        simp [State.core, Store.clearWritten, hn]
      dsimp only
      rw [if_neg hoff, hend]
      exact .cleared hsome

/-- What a command can come to at the core. -/
theorem Happened.core {s t : State} (hh : Happened s t) : ∃ m, CoreNext s m ∧ m.Granted t.core := by
  cases hh with
  | received t hr =>
    cases hr with
    | discarded | assembling | idle | refused => exact ⟨_, .kept, .nothing _⟩
    | accepted tag code t hclear _ _ hp => exact Performed.core (t := t) hclear hp
  | powerOn rate => exact ⟨_, .gone true none (Or.inl rfl), .nothing _⟩
  | pinReset rate => exact ⟨_, s.pinReset_core rate, .nothing _⟩
  | clearWrite => exact ⟨_, s.clearWriteComplete_core, .nothing _⟩
  | txEnd => exact ⟨_, .kept, .nothing _⟩
  | event j w hj he =>
    refine ⟨_, .settled j w _ hj (.event w he), ?_⟩
    have : (s.closeEvent w).core = (s.settleWork w).core := rfl
    rw [this, State.settleWork_core]
    exact .nothing _
  | storeEvent freeIndex j st w hj he =>
    refine ⟨_, .settled j w _ hj (.store st w he), ?_⟩
    have hgrant := State.arbitrate_core (({ s with freeIndex := freeIndex, store := st } : State).settleWork w)
    have hclear : st.clear = s.store.clear := by cases he <;> rfl
    rw [State.settleWork_core] at hgrant
    have hsame : s.core.clearing = st.clear.isSome := by simp [State.core, hclear]
    rw [hsame]
    exact hgrant
  | hostRead i status body hf =>
    refine ⟨_, .freed _ hf, ?_⟩
    have := State.arbitrate_core (s.freeStore.endTransfer status body)
    rw [State.endTransfer_core] at this
    exact this
  | hostWrite i content body hf =>
    refine ⟨_, .freed _ hf, ?_⟩
    have := State.arbitrate_core ((s.freeStore.mapStore (fun st => st.writeBlock i content)).endTransfer .ok body)
    rw [State.endTransfer_core] at this
    exact this
  | damaged i content => exact ⟨_, .kept, .nothing _⟩

/-! ### Laws of the job -/

/-- A law of the job that every work at the job keeps. -/
structure JobLaw (P : Job → Prop) : Prop where
  direct : ∀ s j j', Direct s j j' → P j → P j'
  settled : ∀ s j w flight, Settles s j flight w → P j → P (w.settle (holdsFlight flight .ru)).job
  aborted : ∀ n ru ve j, j.phase ≠ .aborting → P j → P (j.beginAbort.stopAtOnce n ru ve)
  unitGranted : ∀ j, P j → P (j.mapUnit (fun u => { u with waiting := none }))
  verifierGranted : ∀ j, P j → P (j.mapVerifier (fun v => { v with waiting := none }))

/-- A law that each work keeps before it is settled, and settling keeps. -/
theorem JobLaw.of_settle {P : Job → Prop} (direct : ∀ s j j', Direct s j j' → P j → P j')
    (work : ∀ s j w flight, Settles s j flight w → P j → P w.job) (settle : ∀ o (w : Work), P w.job → P (w.settle o).job)
    (aborted : ∀ n ru ve j, j.phase ≠ .aborting → P j → P (j.beginAbort.stopAtOnce n ru ve))
    (unitGranted : ∀ j, P j → P (j.mapUnit (fun u => { u with waiting := none })))
    (verifierGranted : ∀ j, P j → P (j.mapVerifier (fun v => { v with waiting := none }))) : JobLaw P where
  direct := direct
  settled s j w flight h hp := settle _ w (work s j w flight h hp)
  aborted := aborted
  unitGranted := unitGranted
  verifierGranted := verifierGranted

/-- A law of the job left by the teardown test. -/
theorem Job.left_has {P : Job → Prop} {j j' : Job} (h : P j) (hj : j.left = some j') : P j' := by
  unfold Job.left at hj
  split at hj
  · cases hj
  · cases hj
    exact h

/-- The arbiter's choice keeps a law of the job. -/
theorem Core.Granted.keeps {P : Job → Prop} (law : JobLaw P) {m c : Core} (hg : m.Granted c) (h : ∀ j, m.job = some j → P j) :
    ∀ j, c.job = some j → P j := by
  cases hg with
  | nothing => exact h
  | unit j op _ => intro j' hj; cases hj; exact law.unitGranted j (h j rfl)
  | verifier j i _ => intro j' hj; cases hj; exact law.verifierGranted j (h j rfl)
  | host op job => exact h

/-- Every command keeps a law of the job, when a new job meets it. -/
theorem JobLaw.happened {P : Job → Prop} (law : JobLaw P) {s t : State} (hh : Happened s t)
    (start : s.job = none → ∀ body d, readDescriptor body = .ok d → P (Job.start d)) (h : s.jobHas P) : t.jobHas P := by
  obtain ⟨m, hm, hg⟩ := hh.core
  refine hg.keeps law ?_
  cases hm with
  | kept => exact h
  | freed op _ => exact h
  | gone clearing flight _ => exact fun j hj => by cases hj
  | cleared _ => exact h
  | loaded body d _ hj hd => intro j hj'; cases hj'; exact start hj body d hd
  | direct j j' hj hd => intro j'' hj''; cases hj''; exact law.direct s j j' hd (h j hj)
  | settled j w flight hj hs => exact fun j' hj' => Job.left_has (law.settled s j w flight hs (h j hj)) hj'
  | aborted j hj hp => exact fun j' hj' => Job.left_has (law.aborted _ _ _ j hp (h j hj)) hj'

/-- Every step keeps a law of the job, when a new job meets it. -/
theorem JobLaw.step {P : Job → Prop} (law : JobLaw P) (start : ∀ body d, readDescriptor body = .ok d → P (Job.start d))
    {s t : State} (hs : step s = .next t) (h : s.jobHas P) : t.jobHas P := by
  rcases step_happened hs with rfl | ⟨rest, hh⟩
  · exact h
  · exact law.happened hh (fun _ => start) h

end Sys2Proof.Machine
end

section
/-! The repair list: what adding a range and removing a block come to (R31 to R35), and that both keep the list in order. A list of ranges
is described by the blocks it covers; an operation on it by what it then covers. -/

namespace Sys2Proof.Machine

/-! ### Ranges and the blocks they cover -/

/-- The ranges of a list have blocks, and lie apart in ascending order (R30, but for the count of 32). -/
def RangesApart (rs : List BlockRange) : Prop := (∀ r ∈ rs, 1 ≤ r.count) ∧ rs.Pairwise (fun a b => a.stop < b.first)

/-- A list of ranges covers a block. -/
def Covers (rs : List BlockRange) (b : Nat) : Prop := ∃ r ∈ rs, r.holds b = true

theorem BlockRange.holds_iff {r : BlockRange} {b : Nat} : r.holds b = true ↔ r.first ≤ b ∧ b < r.stop := by
  simp [BlockRange.holds]

theorem rangesInOrder_iff {rs : List BlockRange} : RangesInOrder rs ↔ rs.length ≤ Config.repairRanges ∧ RangesApart rs := Iff.rfl

theorem RangesInOrder.apart {rs : List BlockRange} (h : RangesInOrder rs) : RangesApart rs := h.2

/-- Two ranges of a list that lies apart are the same, or one ends before the other begins. -/
theorem RangesApart.separate {rs : List BlockRange} (h : RangesApart rs) {x y : BlockRange} (hx : x ∈ rs) (hy : y ∈ rs) :
    x = y ∨ x.stop < y.first ∨ y.stop < x.first := by
  have hp := h.2
  clear h
  induction rs with
  | nil => cases hx
  | cons a rest ih =>
    obtain ⟨hhead, hrest⟩ := List.pairwise_cons.mp hp
    rcases List.mem_cons.mp hx with rfl | hx'
    · rcases List.mem_cons.mp hy with rfl | hy'
      · exact Or.inl rfl
      · exact Or.inr (Or.inl (hhead y hy'))
    · rcases List.mem_cons.mp hy with rfl | hy'
      · exact Or.inr (Or.inr (hhead x hx'))
      · exact ih hx' hy' hrest

/-- A list that lies apart holds a block in one range only. -/
theorem RangesApart.holder_unique {rs : List BlockRange} (h : RangesApart rs) {x y : BlockRange} (hx : x ∈ rs) (hy : y ∈ rs) {b : Nat}
    (hxb : x.holds b = true) (hyb : y.holds b = true) : x = y := by
  rw [BlockRange.holds_iff] at hxb hyb
  rcases h.separate hx hy with he | hlt | hlt
  · exact he
  · omega
  · omega

theorem BlockRange.stop_eq (r : BlockRange) : r.stop = r.first + r.count := rfl

theorem BlockRange.first_le_stop (r : BlockRange) : r.first ≤ r.stop := Nat.le_add_right _ _

/-! ### Adding a range (R31) -/

theorem BlockRange.touches_iff {new old : BlockRange} : new.touches old = true ↔ old.first ≤ new.stop ∧ new.first ≤ old.stop := by
  simp [BlockRange.touches]

theorem BlockRange.join_first (a b : BlockRange) : (a.join b).first = min a.first b.first := rfl

theorem BlockRange.join_stop (a b : BlockRange) : (a.join b).stop = max a.stop b.stop := by
  have ha := a.first_le_stop
  rw [BlockRange.stop_eq, BlockRange.join_first]
  show min a.first b.first + (max a.stop b.stop - min a.first b.first) = max a.stop b.stop
  omega

/-- The range that a new one and those it touches are merged to: it covers what they cover, and each end is an end of one of them. -/
theorem foldl_join_spec (r : BlockRange) (ys : List BlockRange) : ∀ acc : BlockRange, acc.first ≤ r.first → r.stop ≤ acc.stop →
    (∀ y ∈ ys, r.touches y = true) →
    (ys.foldl BlockRange.join acc).first ≤ acc.first ∧ acc.stop ≤ (ys.foldl BlockRange.join acc).stop ∧
    (∀ b, (ys.foldl BlockRange.join acc).holds b = true ↔ acc.holds b = true ∨ Covers ys b) ∧
    ((ys.foldl BlockRange.join acc).first = acc.first ∨ ∃ y ∈ ys, (ys.foldl BlockRange.join acc).first = y.first) ∧
    ((ys.foldl BlockRange.join acc).stop = acc.stop ∨ ∃ y ∈ ys, (ys.foldl BlockRange.join acc).stop = y.stop) := by
  induction ys with
  | nil =>
    intro acc _ _ _
    exact ⟨Nat.le_refl _, Nat.le_refl _, fun b => by simp [Covers], Or.inl rfl, Or.inl rfl⟩
  | cons y rest ih =>
    intro acc h1 h2 htouch
    have hy := BlockRange.touches_iff.mp (htouch y (List.mem_cons_self ..))
    have hfirst := acc.join_first y
    have hstop := acc.join_stop y
    have hlow : (acc.join y).first ≤ acc.first := hfirst ▸ Nat.min_le_left ..
    have hhigh : acc.stop ≤ (acc.join y).stop := hstop ▸ Nat.le_max_left ..
    obtain ⟨g1, g2, g3, g4, g5⟩ := ih (acc.join y) (Nat.le_trans hlow h1) (Nat.le_trans h2 hhigh)
      (fun z hz => htouch z (List.mem_cons_of_mem _ hz))
    rw [List.foldl_cons]
    refine ⟨Nat.le_trans g1 hlow, Nat.le_trans hhigh g2, fun b => ?_, ?_, ?_⟩
    · rw [g3 b]
      have hjoin : (acc.join y).holds b = true ↔ acc.holds b = true ∨ y.holds b = true := by
        simp only [BlockRange.holds_iff, hfirst, hstop]
        clear g3 g4 g5
        omega
      rw [hjoin, or_assoc]
      simp [Covers]
    · rcases g4 with g4 | ⟨z, hz, g4⟩
      · rcases Nat.le_total acc.first y.first with hle | hle
        · exact Or.inl (by rw [g4, hfirst, Nat.min_eq_left hle])
        · exact Or.inr ⟨y, List.mem_cons_self .., by rw [g4, hfirst, Nat.min_eq_right hle]⟩
      · exact Or.inr ⟨z, List.mem_cons_of_mem _ hz, g4⟩
    · rcases g5 with g5 | ⟨z, hz, g5⟩
      · rcases Nat.le_total y.stop acc.stop with hle | hle
        · exact Or.inl (by rw [g5, hstop, Nat.max_eq_left hle])
        · exact Or.inr ⟨y, List.mem_cons_self .., by rw [g5, hstop, Nat.max_eq_right hle]⟩
      · exact Or.inr ⟨z, List.mem_cons_of_mem _ hz, g5⟩

/-- A range of the list ends before a new one, touches it, or begins past it: one of the three. -/
theorem BlockRange.place (r x : BlockRange) :
    x.stop < r.first ∧ r.touches x = false ∧ ¬ r.stop < x.first ∨
    r.touches x = true ∧ ¬ x.stop < r.first ∧ ¬ r.stop < x.first ∨
    r.stop < x.first ∧ r.touches x = false ∧ ¬ x.stop < r.first := by
  have h1 := r.first_le_stop
  have h2 := x.first_le_stop
  cases ht : r.touches x with
  | true =>
    obtain ⟨h3, h4⟩ := BlockRange.touches_iff.mp ht
    exact Or.inr (Or.inl ⟨rfl, by omega, by omega⟩)
  | false =>
    have hno : ¬ (x.first ≤ r.stop ∧ r.first ≤ x.stop) := fun h => by simp [BlockRange.touches_iff.mpr h] at ht
    by_cases hlow : x.stop < r.first
    · exact Or.inl ⟨hlow, rfl, by omega⟩
    · exact Or.inr (Or.inr ⟨by omega, rfl, hlow⟩)

/-- A merged list covers what the list covered and the new range. -/
theorem mergeRange_covers (r : BlockRange) (rs : List BlockRange) (b : Nat) :
    Covers (mergeRange r rs) b ↔ Covers rs b ∨ r.holds b = true := by
  obtain ⟨_, _, hcover, _, _⟩ := foldl_join_spec r (rs.filter r.touches) r (Nat.le_refl _) (Nat.le_refl _)
    (fun y hy => (List.mem_filter.mp hy).2)
  unfold mergeRange
  constructor
  · rintro ⟨x, hx, hb⟩
    simp only [List.mem_append, List.mem_filter, List.mem_singleton] at hx
    rcases hx with (⟨hx, _⟩ | rfl) | ⟨hx, _⟩
    · exact Or.inl ⟨x, hx, hb⟩
    · rcases (hcover b).mp hb with hb | ⟨y, hy, hb⟩
      · exact Or.inr hb
      · exact Or.inl ⟨y, (List.mem_filter.mp hy).1, hb⟩
    · exact Or.inl ⟨x, hx, hb⟩
  · rintro (⟨x, hx, hb⟩ | hb)
    · rcases r.place x with ⟨h, _, _⟩ | ⟨h, _, _⟩ | ⟨h, _, _⟩
      · exact ⟨x, by simp [hx, h], hb⟩
      · exact ⟨_, by simp, (hcover b).mpr (Or.inr ⟨x, List.mem_filter.mpr ⟨hx, h⟩, hb⟩)⟩
      · exact ⟨x, by simp [hx, h], hb⟩
    · exact ⟨_, by simp, (hcover b).mpr (Or.inl hb)⟩

/-- A merged list lies apart. -/
theorem mergeRange_apart {r : BlockRange} {rs : List BlockRange} (h : RangesApart rs) (hr : 1 ≤ r.count) :
    RangesApart (mergeRange r rs) := by
  obtain ⟨hfirst, hstop, _, hlow, hhigh⟩ := foldl_join_spec r (rs.filter r.touches) r (Nat.le_refl _) (Nat.le_refl _)
    (fun y hy => (List.mem_filter.mp hy).2)
  obtain ⟨hcount, hpair⟩ := h
  have hrs := r.stop_eq
  have below {x : BlockRange} (hx : x ∈ rs) (hlt : x.stop < r.first) : x.stop < ((rs.filter r.touches).foldl BlockRange.join r).first := by
    rcases hlow with he | ⟨y, hy, he⟩
    · omega
    · obtain ⟨hy, hty⟩ := List.mem_filter.mp hy
      have hty := BlockRange.touches_iff.mp hty
      have hxs := x.first_le_stop
      rcases RangesApart.separate ⟨hcount, hpair⟩ hx hy with rfl | hs | hs <;> omega
  have above {x : BlockRange} (hx : x ∈ rs) (hlt : r.stop < x.first) : ((rs.filter r.touches).foldl BlockRange.join r).stop < x.first := by
    rcases hhigh with he | ⟨y, hy, he⟩
    · omega
    · obtain ⟨hy, hty⟩ := List.mem_filter.mp hy
      have hty := BlockRange.touches_iff.mp hty
      have hxs := x.first_le_stop
      rcases RangesApart.separate ⟨hcount, hpair⟩ hx hy with rfl | hs | hs <;> omega
  constructor
  · intro x hx
    simp only [mergeRange, List.mem_append, List.mem_filter, List.mem_singleton] at hx
    rcases hx with (⟨hx, _⟩ | rfl) | ⟨hx, _⟩
    · exact hcount x hx
    · have := BlockRange.stop_eq ((rs.filter r.touches).foldl BlockRange.join r)
      omega
    · exact hcount x hx
  · unfold mergeRange
    refine List.pairwise_append.mpr ⟨List.pairwise_append.mpr ⟨hpair.filter _, List.pairwise_singleton _ _, ?_⟩, hpair.filter _, ?_⟩
    · intro x hx y hy
      obtain rfl := List.mem_singleton.mp hy
      simp only [List.mem_filter, decide_eq_true_eq] at hx
      exact below hx.1 hx.2
    · intro x hx y hy
      simp only [List.mem_filter, decide_eq_true_eq] at hy
      rcases List.mem_append.mp hx with hx | hx
      · simp only [List.mem_filter, decide_eq_true_eq] at hx
        have := x.first_le_stop
        omega
      · obtain rfl := List.mem_singleton.mp hx
        exact above hy.1 hy.2

/-- The lengths of the three parts that a new range cuts a list into. -/
theorem mergeRange_length (r : BlockRange) (rs : List BlockRange) :
    (mergeRange r rs).length + (rs.filter r.touches).length = rs.length + 1 := by
  have key : (rs.filter (fun x => x.stop < r.first)).length + (rs.filter r.touches).length
      + (rs.filter (fun x => r.stop < x.first)).length = rs.length := by
    induction rs with
    | nil => rfl
    | cons x rest ih =>
      simp only [List.filter_cons, decide_eq_true_eq, List.length_cons]
      rcases r.place x with ⟨h1, h2, h3⟩ | ⟨h1, h2, h3⟩ | ⟨h1, h2, h3⟩ <;>
        simp only [h1, h2, h3, if_true, if_false, Bool.false_eq_true, List.length_cons] <;> omega
  unfold mergeRange
  simp only [List.length_append, List.length_singleton]
  omega

/-- Setting the overflow flag, where it may be set already. -/
theorem Tracker.setOverflow_eq (r : BlockRange) (t : Tracker) :
    t.setOverflow r = ⟨{ t with overflow := true }, if t.overflow then none else some r⟩ := by
  unfold Tracker.setOverflow
  cases h : t.overflow
  · rfl
  · simp only [if_true]
    rw [← h]

/-- A range that touches a listed one, or finds a place free, is merged into the list (R31). -/
theorem Tracker.addRange_merged {r : BlockRange} {t : Tracker} (hr : 1 ≤ r.count)
    (h : (∃ x ∈ t.repairs, r.touches x = true) ∨ t.repairs.length < Config.repairRanges) :
    t.addRange r = ⟨{ t with repairs := mergeRange r t.repairs }, none⟩ := by
  unfold Tracker.addRange
  rw [if_neg (by omega), if_pos]
  simpa using h

/-- A range that touches none of 32 listed ones is not recorded, and sets the overflow flag (R31, R34). -/
theorem Tracker.addRange_full {r : BlockRange} {t : Tracker} (hr : 1 ≤ r.count) (hn : ∀ x ∈ t.repairs, r.touches x = false)
    (hl : Config.repairRanges ≤ t.repairs.length) :
    t.addRange r = ⟨{ t with overflow := true }, if t.overflow then none else some r⟩ := by
  unfold Tracker.addRange
  rw [if_neg (by omega), if_neg, Tracker.setOverflow_eq]
  simp only [Bool.or_eq_true, List.any_eq_true, decide_eq_true_eq, not_or, not_exists, not_and, Bool.not_eq_true]
  exact ⟨hn, by omega⟩

/-- Adding a range merges it, or, where it cannot be recorded, sets the overflow flag. -/
theorem Tracker.addRange_cases (r : BlockRange) (t : Tracker) (hr : 1 ≤ r.count) :
    (((∃ x ∈ t.repairs, r.touches x = true) ∨ t.repairs.length < Config.repairRanges) ∧
      t.addRange r = ⟨{ t with repairs := mergeRange r t.repairs }, none⟩) ∨
    ((∀ x ∈ t.repairs, r.touches x = false) ∧ Config.repairRanges ≤ t.repairs.length ∧
      t.addRange r = ⟨{ t with overflow := true }, if t.overflow then none else some r⟩) := by
  by_cases h : (∃ x ∈ t.repairs, r.touches x = true) ∨ t.repairs.length < Config.repairRanges
  · exact Or.inl ⟨h, Tracker.addRange_merged hr h⟩
  · have hn : ∀ x ∈ t.repairs, r.touches x = false := fun x hx => by
      cases ht : r.touches x with
      | false => rfl
      | true => exact absurd (Or.inl ⟨x, hx, ht⟩) h
    have hl : Config.repairRanges ≤ t.repairs.length := Nat.le_of_not_lt fun hlt => h (Or.inr hlt)
    exact Or.inr ⟨hn, hl, Tracker.addRange_full hr hn hl⟩

/-- Adding a range keeps the list in order. -/
theorem Tracker.addRange_inOrder (r : BlockRange) {t : Tracker} (h : RangesInOrder t.repairs) :
    RangesInOrder (t.addRange r).tracker.repairs := by
  by_cases hr : r.count = 0
  · simpa [Tracker.addRange, hr] using h
  · rcases t.addRange_cases r (by omega) with ⟨hc, he⟩ | ⟨_, _, he⟩
    · rw [he]
      refine rangesInOrder_iff.mpr ⟨?_, mergeRange_apart h.apart (by omega)⟩
      have hlen := mergeRange_length r t.repairs
      have := h.1
      show (mergeRange r t.repairs).length ≤ _
      rcases hc with ⟨x, hx, ht⟩ | hlt
      · have : 0 < (t.repairs.filter r.touches).length := List.length_pos_of_mem (List.mem_filter.mpr ⟨hx, ht⟩)
        omega
      · omega
    · rw [he]
      exact h

/-! ### Removing a block (R32, R33) -/

/-- A list that lies apart still does when one range gives way to ranges apart inside it. -/
theorem RangesApart.replace {pre post ps : List BlockRange} {r : BlockRange} (h : RangesApart (pre ++ r :: post)) (hps : RangesApart ps)
    (hin : ∀ p ∈ ps, r.first ≤ p.first ∧ p.stop ≤ r.stop) : RangesApart (pre ++ (ps ++ post)) := by
  obtain ⟨hcount, hpair⟩ := h
  obtain ⟨hpre, hrest, hcross⟩ := List.pairwise_append.mp hpair
  obtain ⟨hr, hpost⟩ := List.pairwise_cons.mp hrest
  obtain ⟨hpc, hpp⟩ := hps
  constructor
  · intro x hx
    rcases List.mem_append.mp hx with hx | hx
    · exact hcount x (by simp [hx])
    · rcases List.mem_append.mp hx with hx | hx
      · exact hpc x hx
      · exact hcount x (by simp [hx])
  · refine List.pairwise_append.mpr ⟨hpre, List.pairwise_append.mpr ⟨hpp, hpost, ?_⟩, ?_⟩
    · intro p hp y hy
      have := hr y hy
      have := hin p hp
      omega
    · intro x hx y hy
      rcases List.mem_append.mp hy with hy | hy
      · have := hcross x hx r (List.mem_cons_self ..)
        have := hin y hy
        omega
      · exact hcross x hx y (List.mem_cons_of_mem _ hy)

/-- What a list covers when one of its ranges gives way to others. -/
theorem covers_replace {pre post ps : List BlockRange} {b : Nat} :
    Covers (pre ++ (ps ++ post)) b ↔ Covers pre b ∨ Covers ps b ∨ Covers post b := by
  simp only [Covers, List.mem_append, or_and_right, exists_or]

/-- The parts of a range that stay when a block of it leaves: apart, inside it, and covering all but the block. -/
theorem BlockRange.without_spec {r : BlockRange} {b : Nat} (h : r.holds b = true) :
    RangesApart (r.without b) ∧ (∀ p ∈ r.without b, r.first ≤ p.first ∧ p.stop ≤ r.stop) ∧
      (∀ k, Covers (r.without b) k ↔ r.holds k = true ∧ k ≠ b) ∧
      ((r.without b).length = 2 ↔ r.first < b ∧ b + 1 < r.stop) ∧ (r.without b).length ≤ 2 := by
  obtain ⟨h1, h2⟩ := BlockRange.holds_iff.mp h
  have hs := r.stop_eq
  have hlow : BlockRange.stop ⟨r.first, b - r.first⟩ = b := by simp [BlockRange.stop]; omega
  have hhigh : b + 1 < r.stop → BlockRange.stop ⟨b + 1, r.stop - (b + 1)⟩ = r.stop := by simp only [BlockRange.stop]; omega
  unfold BlockRange.without
  by_cases ha : r.first < b <;> by_cases hb : b + 1 < r.stop
  · have hhigh := hhigh hb
    rw [if_pos ha, if_pos hb]
    refine ⟨⟨?_, ?_⟩, ?_, fun k => ?_, by simp [ha, hb], by simp⟩
    · intro x hx
      simp only [List.singleton_append, List.mem_cons, List.not_mem_nil, or_false] at hx
      rcases hx with rfl | rfl
      · show 1 ≤ b - r.first
        omega
      · show 1 ≤ r.stop - (b + 1)
        omega
    · simp only [List.singleton_append, List.pairwise_cons, List.mem_singleton, forall_eq, hlow]
      exact ⟨Nat.lt_succ_self b, by simp⟩
    · intro x hx
      simp only [List.singleton_append, List.mem_cons, List.not_mem_nil, or_false] at hx
      rcases hx with rfl | rfl
      · rw [hlow]
        exact ⟨Nat.le_refl _, by omega⟩
      · rw [hhigh]
        exact ⟨Nat.le_trans (Nat.le_of_lt ha) (Nat.le_succ b), Nat.le_refl _⟩
    · simp only [Covers, List.singleton_append, List.mem_cons, List.not_mem_nil, or_false, exists_eq_or_imp, exists_eq_left,
        BlockRange.holds_iff, hlow, hhigh]
      omega
  · rw [if_pos ha, if_neg hb]
    refine ⟨⟨?_, by simp⟩, ?_, fun k => ?_, by simp [hb], by simp⟩
    · intro x hx
      obtain rfl := List.mem_singleton.mp (by simpa using hx)
      show 1 ≤ b - r.first
      omega
    · intro x hx
      obtain rfl := List.mem_singleton.mp (by simpa using hx)
      rw [hlow]
      exact ⟨Nat.le_refl _, by omega⟩
    · simp only [Covers, List.append_nil, List.mem_singleton, exists_eq_left, BlockRange.holds_iff, hlow]
      omega
  · have hhigh := hhigh hb
    rw [if_neg ha, if_pos hb]
    refine ⟨⟨?_, by simp⟩, ?_, fun k => ?_, by simp [ha], by simp⟩
    · intro x hx
      obtain rfl := List.mem_singleton.mp (by simpa using hx)
      show 1 ≤ r.stop - (b + 1)
      omega
    · intro x hx
      obtain rfl := List.mem_singleton.mp (by simpa using hx)
      rw [hhigh]
      exact ⟨Nat.le_succ_of_le h1, Nat.le_refl _⟩
    · simp only [Covers, List.nil_append, List.mem_singleton, exists_eq_left, BlockRange.holds_iff, hhigh]
      omega
  · rw [if_neg ha, if_neg hb]
    refine ⟨⟨by simp, by simp⟩, by simp, fun k => ?_, by simp [ha], by simp⟩
    simp only [Covers, List.append_nil, List.not_mem_nil, false_and, exists_false, BlockRange.holds_iff, false_iff]
    omega

/-- Where a block's range stands in the list, and what the two removals make of the list there. -/
theorem removeFrom_split {b : Nat} {rs : List BlockRange} {r : BlockRange} (h : rs.find? (fun x => x.holds b) = some r) :
    ∃ pre post, rs = pre ++ r :: post ∧ r.holds b = true ∧ removeFrom b rs = pre ++ (r.without b ++ post) ∧
      removeKeepingLower b rs = pre ++ ((r.without b).take 1 ++ post) := by
  induction rs with
  | nil => cases h
  | cons x rest ih =>
    unfold removeFrom removeKeepingLower
    cases hx : x.holds b with
    | true =>
      rw [List.find?_cons_of_pos (by simpa using hx)] at h
      cases h
      exact ⟨[], rest, rfl, hx, rfl, rfl⟩
    | false =>
      rw [List.find?_cons_of_neg (by simp [hx])] at h
      obtain ⟨pre, post, rfl, hr, h1, h2⟩ := ih h
      exact ⟨x :: pre, post, rfl, hr, by simp [h1], by simp [h2]⟩

/-- In a list that lies apart, the blocks of the range that holds a block are those the others do not cover. -/
theorem RangesApart.covers_others {pre post : List BlockRange} {r : BlockRange} (h : RangesApart (pre ++ r :: post)) {k : Nat}
    (hk : r.holds k = true) : ¬ Covers pre k ∧ ¬ Covers post k := by
  obtain ⟨_, hpair⟩ := h
  obtain ⟨_, hrest, hcross⟩ := List.pairwise_append.mp hpair
  obtain ⟨hr, _⟩ := List.pairwise_cons.mp hrest
  rw [BlockRange.holds_iff] at hk
  constructor
  · rintro ⟨x, hx, hxk⟩
    rw [BlockRange.holds_iff] at hxk
    have := hcross x hx r (List.mem_cons_self ..)
    omega
  · rintro ⟨x, hx, hxk⟩
    rw [BlockRange.holds_iff] at hxk
    have := hr x hx
    omega

/-- Removing a block (R32, R33): the list stays as it is, or the block leaves it, or at capacity a split drops the upper part. -/
theorem Tracker.removeBlock_cases (b : Nat) (t : Tracker) :
    (¬ Covers t.repairs b ∧ t.removeBlock b = ⟨t, none⟩) ∨
    (∃ pre r post, t.repairs = pre ++ r :: post ∧ r.holds b = true ∧
      ¬ ((r.first < b ∧ b + 1 < r.stop) ∧ Config.repairRanges ≤ t.repairs.length) ∧
      t.removeBlock b = ⟨{ t with repairs := pre ++ (r.without b ++ post) }, none⟩) ∨
    ∃ pre r post, t.repairs = pre ++ r :: post ∧ r.holds b = true ∧ r.first < b ∧ b + 1 < r.stop ∧
      Config.repairRanges ≤ t.repairs.length ∧
      t.removeBlock b = ⟨{ t with repairs := pre ++ (⟨r.first, b - r.first⟩ :: post), overflow := true },
        if t.overflow then none else some ⟨b + 1, r.stop - (b + 1)⟩⟩ := by
  unfold Tracker.removeBlock
  split
  · next hf =>
    refine Or.inl ⟨?_, rfl⟩
    rintro ⟨x, hx, hb⟩
    have := List.find?_eq_none.mp hf x hx
    simp [hb] at this
  · next r hf =>
    obtain ⟨pre, post, hsplit, hr, h1, h2⟩ := removeFrom_split hf
    obtain ⟨_, _, _, htwo, _⟩ := BlockRange.without_spec hr
    simp only [htwo]
    split
    · next hc =>
      obtain ⟨⟨ha, hb⟩, hl⟩ := hc
      have hlow : (r.without b).take 1 = [⟨r.first, b - r.first⟩] := by simp [BlockRange.without, ha, hb]
      refine Or.inr (Or.inr ⟨pre, r, post, hsplit, hr, ha, hb, hl, ?_⟩)
      rw [Tracker.setOverflow_eq, h2, hlow]
      rfl
    · next hc =>
      refine Or.inr (Or.inl ⟨pre, r, post, hsplit, hr, hc, ?_⟩)
      rw [h1]

/-- The lower part of a split. -/
theorem BlockRange.lower_spec {r : BlockRange} {b : Nat} (ha : r.first < b) (hb : b < r.stop) :
    RangesApart [⟨r.first, b - r.first⟩] ∧
      (∀ p ∈ [(⟨r.first, b - r.first⟩ : BlockRange)], r.first ≤ p.first ∧ p.stop ≤ r.stop) ∧
      ∀ k, Covers [⟨r.first, b - r.first⟩] k ↔ r.holds k = true ∧ k < b := by
  have hlow : BlockRange.stop ⟨r.first, b - r.first⟩ = b := by simp [BlockRange.stop]; omega
  refine ⟨⟨?_, by simp⟩, ?_, fun k => ?_⟩
  · intro x hx
    obtain rfl := List.mem_singleton.mp hx
    show 1 ≤ b - r.first
    omega
  · intro x hx
    obtain rfl := List.mem_singleton.mp hx
    rw [hlow]
    exact ⟨Nat.le_refl _, by omega⟩
  · simp only [Covers, List.mem_singleton, exists_eq_left, BlockRange.holds_iff, hlow]
    omega

/-- Removing a block keeps the list in order. -/
theorem Tracker.removeBlock_inOrder (b : Nat) {t : Tracker} (h : RangesInOrder t.repairs) :
    RangesInOrder (t.removeBlock b).tracker.repairs := by
  rcases t.removeBlock_cases b with ⟨_, he⟩ | ⟨pre, r, post, hs, hr, hc, he⟩ | ⟨pre, r, post, hs, hr, ha, hb, hl, he⟩ <;> rw [he]
  · exact h
  · obtain ⟨hp, hin, _, htwo, hle⟩ := BlockRange.without_spec hr
    have hlen := h.1
    have hapart := h.apart
    rw [hs] at hlen hapart hc
    refine rangesInOrder_iff.mpr ⟨?_, hapart.replace hp hin⟩
    simp only [List.length_append, List.length_cons] at hlen hc ⊢
    by_cases h2 : (r.without b).length = 2
    · have := htwo.mp h2
      have : ¬ Config.repairRanges ≤ pre.length + (post.length + 1) := fun hl => hc ⟨this, hl⟩
      omega
    · omega
  · obtain ⟨hp, hin, _⟩ := BlockRange.lower_spec ha (by omega : b < r.stop)
    have hlen := h.1
    have hapart := h.apart
    rw [hs] at hlen hapart
    refine rangesInOrder_iff.mpr ⟨?_, hapart.replace hp hin⟩
    simpa using hlen

/-- After a removal the block is covered no more, and no block that was not is. -/
theorem Tracker.removeBlock_covers {b : Nat} {t : Tracker} (h : RangesApart t.repairs) {k : Nat}
    (hk : Covers (t.removeBlock b).tracker.repairs k) : k ≠ b ∧ Covers t.repairs k := by
  rcases t.removeBlock_cases b with ⟨hn, he⟩ | ⟨pre, r, post, hs, hr, _, he⟩ | ⟨pre, r, post, hs, hr, ha, hb, _, he⟩ <;> rw [he] at hk
  · exact ⟨fun hkb => hn (hkb ▸ hk), hk⟩
  · obtain ⟨_, _, hcov, _, _⟩ := BlockRange.without_spec hr
    rw [hs] at h ⊢
    have hall : Covers pre k ∨ r.holds k = true ∨ Covers post k → Covers (pre ++ r :: post) k := fun h => by
      simpa [Covers, or_and_right, exists_or] using h
    obtain ⟨hb1, hb2⟩ := h.covers_others hr
    rcases covers_replace.mp hk with hk | hk | hk
    · exact ⟨fun hkb => hb1 (hkb ▸ hk), hall (Or.inl hk)⟩
    · have ⟨hrk, hne⟩ := (hcov k).mp hk
      exact ⟨hne, hall (Or.inr (Or.inl hrk))⟩
    · exact ⟨fun hkb => hb2 (hkb ▸ hk), hall (Or.inr (Or.inr hk))⟩
  · obtain ⟨_, _, hcov⟩ := BlockRange.lower_spec ha (by omega : b < r.stop)
    rw [hs] at h ⊢
    have hall : Covers pre k ∨ r.holds k = true ∨ Covers post k → Covers (pre ++ r :: post) k := fun h => by
      simpa [Covers, or_and_right, exists_or] using h
    obtain ⟨hb1, hb2⟩ := h.covers_others hr
    rcases covers_replace (ps := [⟨r.first, b - r.first⟩]).mp hk with hk | hk | hk
    · exact ⟨fun hkb => hb1 (hkb ▸ hk), hall (Or.inl hk)⟩
    · have ⟨hrk, hlt⟩ := (hcov k).mp hk
      exact ⟨Nat.ne_of_lt hlt, hall (Or.inr (Or.inl hrk))⟩
    · exact ⟨fun hkb => hb2 (hkb ▸ hk), hall (Or.inr (Or.inr hk))⟩

/-- Where no split at capacity happens, a removal leaves the overflow flag and covers every other block as before. -/
theorem Tracker.removeBlock_exact {b : Nat} {t : Tracker}
    (h : t.repairs.length < Config.repairRanges ∨ ∀ x ∈ t.repairs, ¬ (x.first < b ∧ b + 1 < x.stop)) :
    (t.removeBlock b).tracker.overflow = t.overflow ∧ (t.removeBlock b).overflowed = none ∧
      ∀ k, k ≠ b → Covers t.repairs k → Covers (t.removeBlock b).tracker.repairs k := by
  rcases t.removeBlock_cases b with ⟨hn, he⟩ | ⟨pre, r, post, hs, hr, _, he⟩ | ⟨pre, r, post, hs, hr, ha, hb, hl, _⟩
  · rw [he]
    exact ⟨rfl, rfl, fun k _ hk => hk⟩
  · obtain ⟨_, _, hcov, _, _⟩ := BlockRange.without_spec hr
    rw [he]
    refine ⟨rfl, rfl, fun k hne hk => covers_replace.mpr ?_⟩
    rw [hs] at hk
    have hk : Covers pre k ∨ r.holds k = true ∨ Covers post k := by simpa [Covers, or_and_right, exists_or] using hk
    exact hk.imp id (Or.imp (fun hk => (hcov k).mpr ⟨hk, hne⟩) id)
  · rcases h with h | h
    · omega
    · exact absurd ⟨ha, hb⟩ (h r (by simp [hs]))

/-- Settles O22: an added range is merged or sets the flag, a removed block leaves its range or splits it at capacity. -/
theorem repairListChanges : Obligations.RepairListChanges := by
  unfold Obligations.RepairListChanges
  refine ⟨fun t r hr hord => ?_, fun t b hord => ?_⟩
  · have hframe := t.addRange_listOnly r
    obtain ⟨rs, o, hlist⟩ := hframe
    refine ⟨Tracker.addRange_inOrder r hord, by rw [hlist], by rw [hlist], fun hroom => ?_, fun hnone hfull => ?_⟩
    · rw [Tracker.addRange_merged hr (hroom.imp (fun ⟨x, hx, ht⟩ => ⟨x, hx, BlockRange.touches_iff.mpr ht⟩) id)]
      exact ⟨rfl, rfl, mergeRange_covers r t.repairs⟩
    · have hno : ∀ x ∈ t.repairs, r.touches x = false := fun x hx => by
        cases ht : r.touches x with
        | false => rfl
        | true => exact absurd (BlockRange.touches_iff.mp ht) (hnone x hx)
      rw [Tracker.addRange_full hr hno hfull]
      exact ⟨rfl, rfl, rfl⟩
  · obtain ⟨rs, o, hlist⟩ := t.removeBlock_listOnly b
    refine ⟨Tracker.removeBlock_inOrder b hord, by rw [hlist], by rw [hlist], fun x hx => ?_, fun hroom => ?_, fun x hx hfull ha hb => ?_⟩
    · cases hb : x.holds b with
      | false => rfl
      | true => exact absurd rfl (Tracker.removeBlock_covers hord.apart ⟨x, hx, hb⟩).1
    · obtain ⟨h1, h2, h3⟩ := Tracker.removeBlock_exact (b := b) (t := t) hroom
      exact ⟨h1, h2, fun k hk => ⟨fun hc => (Tracker.removeBlock_covers hord.apart hc).2, h3 k hk⟩⟩
    · have hxb : x.holds b = true := BlockRange.holds_iff.mpr ⟨by omega, by rw [BlockRange.stop_eq]; omega⟩
      rcases t.removeBlock_cases b with ⟨hn, _⟩ | ⟨pre, r, post, hs, hr, hc, _⟩ | ⟨pre, r, post, hs, hr, ha', hb', hl, he⟩
      · exact absurd ⟨x, hx, hxb⟩ hn
      · obtain rfl := hord.apart.holder_unique hx (by simp [hs]) hxb hr
        exact absurd ⟨⟨ha, hb⟩, hfull⟩ hc
      · obtain rfl := hord.apart.holder_unique hx (by simp [hs]) hxb hr
        obtain ⟨_, _, hcov⟩ := BlockRange.lower_spec ha' (by omega : b < x.stop)
        rw [he]
        refine ⟨rfl, by simp [hs], rfl, fun k hk => ?_⟩
        have hapart := hord.apart
        rw [hs] at hapart
        show Covers (pre ++ ([⟨x.first, b - x.first⟩] ++ post)) k ↔ Covers t.repairs k ∧ _
        have hall : Covers (pre ++ x :: post) k ↔ Covers pre k ∨ x.holds k = true ∨ Covers post k := by
          simp [Covers, or_and_right, exists_or]
        rw [covers_replace, hcov, hs, hall]
        have hupper : b < k ∧ k < x.first + x.count → x.holds k = true := fun h =>
          BlockRange.holds_iff.mpr ⟨by omega, h.2⟩
        by_cases hxk : x.holds k = true
        · obtain ⟨h1, h2⟩ := hapart.covers_others hxk
          have hxk' := BlockRange.holds_iff.mp hxk
          rw [BlockRange.stop_eq] at hxk'
          simp only [h1, h2, hxk, true_and, false_or, or_false]
          omega
        · simp only [hxk, false_and, false_or, Bool.false_eq_true]
          exact ⟨fun h => ⟨h, fun hu => hxk (hupper hu)⟩, fun h => h.1⟩

end Sys2Proof.Machine
end

section
/-! What every operation at the job keeps, whatever the state it finds: the descriptor, a frontier that does not fall, the order of CT's
lists, the soundness of the window, the fault record's fit and the sizes. One relation says all of it, and one lemma for each operation
says that the operation is in the relation. -/

namespace Sys2Proof.Machine

/-! ### CT -/

/-- What an operation of CT keeps: F does not fall, and the lists stay in order. -/
structure Tracker.Goes (t t' : Tracker) : Prop where
  frontier : t.frontier ≤ t'.frontier
  lists : t.ListsInOrder → t'.ListsInOrder

theorem Tracker.Goes.refl (t : Tracker) : t.Goes t := ⟨Nat.le_refl _, id⟩

theorem Tracker.Goes.trans {a b c : Tracker} (h : a.Goes b) (g : b.Goes c) : a.Goes c :=
  ⟨Nat.le_trans h.frontier g.frontier, fun hl => g.lists (h.lists hl)⟩

/-- A change of map and F that leaves the lists. -/
theorem Tracker.goes_map {t : Tracker} (map : List Coverage) {frontier : Nat} (h : t.frontier ≤ frontier) :
    t.Goes { t with map := map, frontier := frontier } := ⟨h, id⟩

/-- A list operation that keeps the repair list in order. -/
theorem Account.ListOnly.goes {t : Tracker} {a : Account} (h : a.ListOnly t)
    (hr : RangesInOrder t.repairs → RangesInOrder a.tracker.repairs) : t.Goes a.tracker := by
  obtain ⟨rs, o, he⟩ := h
  rw [he] at hr ⊢
  exact ⟨Nat.le_refl _, fun ⟨hl, hs⟩ => ⟨hr hl, hs⟩⟩

theorem Tracker.goes_setOverflow (r : BlockRange) (t : Tracker) : t.Goes (t.setOverflow r).tracker := by
  rw [Tracker.setOverflow_eq]
  exact ⟨Nat.le_refl _, id⟩

theorem Tracker.goes_addRange (r : BlockRange) (t : Tracker) : t.Goes (t.addRange r).tracker :=
  (t.addRange_listOnly r).goes (Tracker.addRange_inOrder r)

theorem Tracker.goes_removeBlock (b : Nat) (t : Tracker) : t.Goes (t.removeBlock b).tracker :=
  (t.removeBlock_listOnly b).goes (Tracker.removeBlock_inOrder b)

/-- Removing blocks one at a time, as a recursion on the blocks. -/
theorem Tracker.removeBlocks_cons (b : Nat) (bs : List Nat) (t : Tracker) :
    (t.removeBlocks (b :: bs)).tracker = ((t.removeBlock b).tracker.removeBlocks bs).tracker := by
  have key : ∀ (bs : List Nat) (a : Account),
      (bs.foldl (fun a b =>
        let step := a.tracker.removeBlock b
        (⟨step.tracker, a.overflowed <|> step.overflowed⟩ : Account)) a).tracker = (a.tracker.removeBlocks bs).tracker := by
    intro bs
    induction bs with
    | nil => exact fun _ => rfl
    | cons c rest ih =>
      intro a
      rw [List.foldl_cons, ih]
      exact (ih ⟨(a.tracker.removeBlock c).tracker, none <|> (a.tracker.removeBlock c).overflowed⟩).symm
  exact key bs _

theorem Tracker.goes_removeBlocks (bs : List Nat) : ∀ t : Tracker, t.Goes (t.removeBlocks bs).tracker := by
  induction bs with
  | nil => exact Tracker.Goes.refl
  | cons b rest ih =>
    intro t
    rw [Tracker.removeBlocks_cons]
    exact (t.goes_removeBlock b).trans (ih _)

/-- The map and F after a write report, before the repair list takes it. -/
def Tracker.written (b : Nat) (c : Coverage) (t : Tracker) : Tracker :=
  { t with map := t.map.set b c, frontier := max t.frontier (b + 1) }

/-- A write report: the map and F, and then the repair list (R26). -/
theorem Tracker.writeReport_eq (b : Nat) (tainted : Bool) (t : Tracker) :
    t.writeReport b tainted =
      if tainted then
        (if t.repairs.any (fun r => r.holds b) then ⟨t.written b .suspect, none⟩ else (t.written b .suspect).addRange ⟨b, 1⟩)
      else (t.written b .written).removeBlock b := by
  by_cases h : t.frontier ≤ b
  · have hmax : max t.frontier (b + 1) = b + 1 := Nat.max_eq_right (by omega)
    cases tainted <;> simp [Tracker.writeReport, Tracker.setState, Tracker.written, h, hmax]
  · have hmax : max t.frontier (b + 1) = t.frontier := Nat.max_eq_left (by omega)
    cases tainted <;> simp [Tracker.writeReport, Tracker.setState, Tracker.written, h, hmax]

theorem Tracker.goes_written (b : Nat) (c : Coverage) (t : Tracker) : t.Goes (t.written b c) :=
  Tracker.goes_map _ (Nat.le_max_left ..)

theorem Tracker.goes_writeReport (b : Nat) (tainted : Bool) (t : Tracker) : t.Goes (t.writeReport b tainted).tracker := by
  rw [Tracker.writeReport_eq]
  split
  · split
    · exact t.goes_written b .suspect
    · exact (t.goes_written b .suspect).trans (Tracker.goes_addRange _ _)
  · exact (t.goes_written b .written).trans (Tracker.goes_removeBlock _ _)

theorem Tracker.goes_setState (b : Nat) (c : Coverage) (t : Tracker) : t.Goes (t.setState b c) :=
  Tracker.goes_map _ (Nat.le_refl _)

theorem Tracker.goes_fillReport (b : Nat) (final : Bool) (t : Tracker) : t.Goes (t.fillReport b final).tracker := by
  unfold Tracker.fillReport
  dsimp only
  split
  · exact (t.goes_setState b _).trans (Tracker.goes_removeBlock _ _)
  · split
    · exact t.goes_setState b _
    · exact (t.goes_setState b _).trans (Tracker.goes_addRange _ _)

theorem Tracker.goes_holeRequest (start : Nat) (t : Tracker) : t.Goes (t.holeRequest start).1.tracker := by
  unfold Tracker.holeRequest
  split
  · next h =>
    obtain ⟨rs, o, he⟩ := t.addRange_listOnly ⟨t.frontier, start - t.frontier⟩
    refine (Tracker.goes_addRange ⟨t.frontier, start - t.frontier⟩ t).trans ⟨?_, id⟩
    show (t.addRange _).tracker.frontier ≤ start
    rw [he]
    exact Nat.le_of_lt h
  · exact Tracker.Goes.refl t

/-- A scan list that is empty is in order. -/
theorem rangesInOrder_nil : RangesInOrder [] := ⟨by decide, by simp, List.Pairwise.nil⟩

theorem Tracker.goes_restartScan (before : List Coverage) (t : Tracker) : t.Goes (t.restartScan before) := by
  rcases t.restartScan_spec before with he | ⟨sc, _, he⟩ <;> rw [he]
  · exact Tracker.Goes.refl t
  · refine ⟨Nat.le_refl _, fun ⟨hl, _⟩ => ⟨hl, fun sc' hs => ?_⟩⟩
    cases hs
    exact ⟨rangesInOrder_nil, by simp⟩

theorem Tracker.goes_mapRange (r : BlockRange) (f : Coverage → Coverage) (t : Tracker) : t.Goes (t.mapRange r f) :=
  Tracker.goes_map _ (Nat.le_refl _)

theorem Tracker.goes_sectionResult (start count : Nat) (outcome : TaskOutcome) (t : Tracker) :
    t.Goes (t.sectionResult start count outcome).tracker := by
  unfold Tracker.sectionResult
  cases outcome with
  | isMatch => exact ((t.goes_mapRange _ _).trans (Tracker.goes_removeBlocks _ _)).trans (Tracker.goes_restartScan _ _)
  | mismatch => exact ((t.goes_mapRange _ _).trans (Tracker.goes_addRange _ _)).trans (Tracker.goes_restartScan _ _)
  | check b => exact ((t.goes_mapRange _ _).trans (Tracker.goes_addRange _ _)).trans (Tracker.goes_restartScan _ _)

theorem Tracker.goes_closeMatch (t : Tracker) : t.Goes t.closeMatch.tracker :=
  (Tracker.goes_map _ (Nat.le_refl _)).trans (Tracker.goes_removeBlocks _ _)

theorem Tracker.goes_closeCheck (b : Nat) (t : Tracker) : t.Goes (t.closeCheck b).tracker :=
  (t.goes_setState b _).trans (Tracker.goes_addRange _ _)

theorem Tracker.goes_waive (r : BlockRange) (t : Tracker) : t.Goes (t.waive r).tracker :=
  (t.goes_mapRange _ _).trans (Tracker.goes_removeBlocks _ _)

theorem Tracker.goes_startScan (t : Tracker) : t.Goes t.startScan := by
  refine ⟨Nat.le_refl _, fun ⟨hl, _⟩ => ⟨hl, fun sc hs => ?_⟩⟩
  cases hs
  exact ⟨rangesInOrder_nil, by simp⟩

theorem Tracker.goes_stopScan (t : Tracker) : t.Goes { t with scan := none } :=
  ⟨Nat.le_refl _, fun ⟨hl, _⟩ => ⟨hl, fun sc hs => by cases hs⟩⟩

/-! ### The walk of the repair scan (R39, R41) -/

/-- A scan list in order, all of it below the scan position. -/
def Scan.InOrder (sc : Scan) : Prop := RangesInOrder sc.ranges ∧ ∀ r ∈ sc.ranges, r.stop ≤ sc.position

/-- The last range of a list lengthened by one block. -/
theorem extendLast_append (init : List BlockRange) (r : BlockRange) :
    extendLast (init ++ [r]) = init ++ [⟨r.first, r.count + 1⟩] := by
  induction init with
  | nil => rfl
  | cons x rest ih =>
    cases rest with
    | nil => rfl
    | cons y more =>
      show x :: extendLast (y :: more ++ [r]) = _
      rw [ih]
      rfl

/-- A scan whose last range ends at the position: the list is that range behind the others. -/
theorem Scan.continues_spec {sc : Scan} (h : sc.continues = true) :
    ∃ init r, sc.ranges = init ++ [r] ∧ r.stop = sc.position := by
  unfold Scan.continues at h
  split at h
  · next r hr =>
    obtain ⟨init, hi⟩ := List.getLast?_eq_some_iff.mp hr
    exact ⟨init, r, hi, by simpa using h⟩
  · cases h

/-- What a visit comes to (R39): an unlistable block is passed over; a listable one lengthens the last range, makes one of its own, or
finds the list full. -/
theorem Scan.visit_cases (c : Coverage) (sc : Scan) :
    (c.listable = false ∧ sc.visit c = { sc with position := sc.position + 1 }) ∨
    (c.listable = true ∧ ∃ init r, sc.ranges = init ++ [r] ∧ r.stop = sc.position ∧
      sc.visit c = { sc with position := sc.position + 1, ranges := init ++ [⟨r.first, r.count + 1⟩] }) ∨
    (c.listable = true ∧ sc.continues = false ∧ sc.ranges.length < Config.repairRanges ∧
      sc.visit c = { sc with position := sc.position + 1, ranges := sc.ranges ++ [⟨sc.position, 1⟩] }) ∨
    (c.listable = true ∧ sc.visit c = { sc with foundMore := true }) := by
  unfold Scan.visit
  cases hc : c.listable with
  | false => exact Or.inl ⟨rfl, by simp⟩
  | true =>
    refine Or.inr ?_
    cases hk : sc.continues with
    | true =>
      obtain ⟨init, r, hi, hr⟩ := Scan.continues_spec hk
      exact Or.inl ⟨rfl, init, r, hi, hr, by simp [hi, extendLast_append]⟩
    | false =>
      by_cases hl : sc.ranges.length < Config.repairRanges
      · exact Or.inr (Or.inl ⟨rfl, rfl, hl, by simp [hl]⟩)
      · exact Or.inr (Or.inr ⟨rfl, by simp [hl]⟩)

/-- In a list that lies below the position and does not end at it, every range ends before it. -/
theorem Scan.InOrder.stop_lt {sc : Scan} (h : sc.InOrder) (hc : sc.continues = false) {r : BlockRange} (hr : r ∈ sc.ranges) :
    r.stop < sc.position := by
  obtain ⟨⟨_, _, hpair⟩, hbelow⟩ := h
  cases hl : sc.ranges.getLast? with
  | none =>
    rw [List.getLast?_eq_none_iff] at hl
    simp [hl] at hr
  | some l =>
    obtain ⟨init, hi⟩ := List.getLast?_eq_some_iff.mp hl
    have hne : l.stop ≠ sc.position := by
      intro he
      simp [Scan.continues, hl, he] at hc
    have hle := hbelow l (by simp [hi])
    rw [hi] at hr hpair
    rcases List.mem_append.mp hr with hr | hr
    · have := (List.pairwise_append.mp hpair).2.2 r hr l (by simp)
      have := l.first_le_stop
      omega
    · obtain rfl := List.mem_singleton.mp hr
      omega

/-- A visit keeps the scan list in order. -/
theorem Scan.InOrder.visit {sc : Scan} (h : sc.InOrder) (c : Coverage) : (sc.visit c).InOrder := by
  have h' := h
  obtain ⟨⟨hlen, hcount, hpair⟩, hbelow⟩ := h
  rcases sc.visit_cases c with ⟨_, he⟩ | ⟨_, init, r, hi, hr, he⟩ | ⟨_, hc, hl, he⟩ | ⟨_, he⟩ <;> rw [he]
  · exact ⟨⟨hlen, hcount, hpair⟩, fun r hr => Nat.le_succ_of_le (hbelow r hr)⟩
  · rw [hi] at hlen hcount hpair hbelow
    obtain ⟨hp, _, hx⟩ := List.pairwise_append.mp hpair
    have hstop : BlockRange.stop ⟨r.first, r.count + 1⟩ = sc.position + 1 := by rw [← hr]; rfl
    refine ⟨⟨by simpa using hlen, fun x hx' => ?_, List.pairwise_append.mpr ⟨hp, List.pairwise_singleton _ _, fun a ha b hb => ?_⟩⟩,
      fun x hx' => ?_⟩
    · rcases List.mem_append.mp hx' with hx' | hx'
      · exact hcount x (by simp [hx'])
      · obtain rfl := List.mem_singleton.mp hx'
        exact Nat.succ_pos _
    · obtain rfl := List.mem_singleton.mp hb
      exact hx a ha r (by simp)
    · rcases List.mem_append.mp hx' with hx' | hx'
      · exact Nat.le_succ_of_le (hbelow x (by simp [hx']))
      · obtain rfl := List.mem_singleton.mp hx'
        exact Nat.le_of_eq hstop
  · refine ⟨⟨by simpa using hl, fun x hx' => ?_, List.pairwise_append.mpr ⟨hpair, List.pairwise_singleton _ _, fun a ha b hb => ?_⟩⟩,
      fun x hx' => ?_⟩
    · rcases List.mem_append.mp hx' with hx' | hx'
      · exact hcount x hx'
      · obtain rfl := List.mem_singleton.mp hx'
        exact Nat.le_refl 1
    · obtain rfl := List.mem_singleton.mp hb
      exact h'.stop_lt hc ha
    · rcases List.mem_append.mp hx' with hx' | hx'
      · exact Nat.le_succ_of_le (hbelow x hx')
      · obtain rfl := List.mem_singleton.mp hx'
        exact Nat.le_refl _
  · exact ⟨⟨hlen, hcount, hpair⟩, hbelow⟩

theorem Tracker.goes_completeScan {sc : Scan} {t : Tracker} (h : t.ListsInOrder → sc.InOrder) : t.Goes (t.completeScan sc).tracker := by
  have key : t.Goes { t with repairs := sc.ranges, scan := none } :=
    ⟨Nat.le_refl _, fun hl => ⟨(h hl).1, fun sc hs => by cases hs⟩⟩
  unfold Tracker.completeScan
  dsimp only
  split
  · exact key.trans (Tracker.goes_setOverflow _ _)
  · exact key.trans ⟨Nat.le_refl _, id⟩

/-- The tracker after a step of the scan, whether the walk goes on or ends. -/
def ScanStep.tracker : ScanStep → Tracker
  | .goesOn t => t
  | .ends a => a.tracker

/-- A step of the walk. -/
theorem Tracker.goes_scanStep {sc : Scan} {t : Tracker} (h : t.scan = some sc) : t.Goes (t.scanStep sc).tracker := by
  have hvisit : t.ListsInOrder → (if sc.position < t.frontier then sc.visit (t.state sc.position) else sc).InOrder := by
    intro ⟨_, hs⟩
    have hsc : sc.InOrder := hs sc h
    split
    · exact hsc.visit _
    · exact hsc
  unfold Tracker.scanStep
  dsimp only
  generalize (if sc.position < t.frontier then sc.visit (t.state sc.position) else sc) = sc' at hvisit
  split
  · exact Tracker.goes_completeScan hvisit
  · refine ⟨Nat.le_refl _, fun hl => ⟨hl.1, fun sc'' hs => ?_⟩⟩
    cases hs
    exact hvisit hl

end Sys2Proof.Machine
end

section
/-! The relation `Job.Goes` (what every operation at the job keeps) and its lemma for each operation of SD, PW, VE and RU. -/

namespace Sys2Proof.Machine

/-- The eleven job counters in their width (R4). -/
def JobCounters.InWidth (c : JobCounters) : Prop :=
  c.parcelsTaken ≤ jobCounterMax ∧ c.duplicates ≤ jobCounterMax ∧ c.lateParcels ≤ jobCounterMax ∧ c.staleParcels ≤ jobCounterMax ∧
    c.numbersLost ≤ jobCounterMax ∧ c.sectionsCompleted ≤ jobCounterMax ∧ c.sectionsAbandoned ≤ jobCounterMax ∧
    c.blocksWritten ≤ jobCounterMax ∧ c.blocksFilled ≤ jobCounterMax ∧ c.digestMismatches ≤ jobCounterMax ∧
    c.stalls ≤ jobCounterMax

theorem Job.inCapacity_iff {j : Job} : j.InCapacity ↔ j.queue.length ≤ Config.queuePlaces ∧ j.ring.bytes.length ≤ Config.ringBytes ∧
    j.verifier.tasks.length ≤ Config.taskPlaces ∧ j.counters.InWidth := Iff.rfl

/-- A counter that grows stays in its width. -/
theorem JobCounters.InWidth.add {counters : JobCounters} (h : counters.InWidth) (c : JobCounter) (k : Nat) :
    (counters.add c k).InWidth := by
  unfold JobCounters.InWidth at h ⊢
  cases c <;> simp only [JobCounters.add, saturate_le, h, and_self]

/-- What an operation at the job keeps. -/
structure Job.Goes (j j' : Job) : Prop where
  descriptor : j'.descriptor = j.descriptor
  tracker : j.tracker.Goes j'.tracker
  window : j.window.Sound → j'.window.Sound
  record : j.FaultRecordFits → j'.FaultRecordFits
  queue : j.queue.length ≤ Config.queuePlaces → j'.queue.length ≤ Config.queuePlaces
  ring : j.ring.bytes.length ≤ Config.ringBytes → j'.ring.bytes.length ≤ Config.ringBytes
  tasks : j.verifier.tasks.length ≤ Config.taskPlaces → j'.verifier.tasks.length ≤ Config.taskPlaces
  counters : j.counters.InWidth → j'.counters.InWidth

theorem Job.Goes.refl (j : Job) : j.Goes j := ⟨rfl, Tracker.Goes.refl _, id, id, id, id, id, id⟩

/-- An operation that leaves all that the relation speaks of. -/
theorem Job.Goes.own {j j' : Job} (hdescriptor : j'.descriptor = j.descriptor) (htracker : j'.tracker = j.tracker)
    (hwindow : j.window.Sound → j'.window.Sound) (hphase : j'.phase = j.phase) (hrecord : j'.faultRecord = j.faultRecord)
    (hqueue : j'.queue = j.queue) (hring : j'.ring = j.ring) (htasks : j'.verifier.tasks = j.verifier.tasks)
    (hcounters : j'.counters = j.counters) : j.Goes j' where
  descriptor := hdescriptor
  tracker := htracker ▸ Tracker.Goes.refl _
  window := hwindow
  record h := by
    unfold Job.FaultRecordFits at h ⊢
    rwa [hphase, hrecord]
  queue h := hqueue ▸ h
  ring h := hring ▸ h
  tasks h := htasks ▸ h
  counters h := hcounters ▸ h

theorem Job.Goes.trans {a b c : Job} (h : a.Goes b) (g : b.Goes c) : a.Goes c where
  descriptor := g.descriptor.trans h.descriptor
  tracker := h.tracker.trans g.tracker
  window := g.window ∘ h.window
  record := g.record ∘ h.record
  queue := g.queue ∘ h.queue
  ring := g.ring ∘ h.ring
  tasks := g.tasks ∘ h.tasks
  counters := g.counters ∘ h.counters

/-- A job state that holds no fault record changes to another such. -/
theorem Job.FaultRecordFits.calm {j j' : Job} (h : j.FaultRecordFits) (hr : j'.faultRecord = j.faultRecord)
    (hp : j.phase ≠ .quiescing ∧ j.phase ≠ .faulted) (hp' : j'.phase ≠ .quiescing ∧ j'.phase ≠ .faulted) : j'.FaultRecordFits := by
  unfold Job.FaultRecordFits at h ⊢
  rw [hr, h]
  simp [hp, hp']

/-! ### SD -/

theorem Job.goes_mapDecoder (f : Decoder → Decoder) (j : Job) : j.Goes (j.mapDecoder f) := .own rfl rfl id rfl rfl rfl rfl rfl rfl

theorem Job.goes_flushOutput (j : Job) : j.Goes j.flushOutput :=
  { Job.Goes.refl j with
      queue := fun h => by
        simp only [Job.flushOutput, List.length_append, List.length_take]
        omega }

theorem Job.goes_produce (items : List Item) (j : Job) : j.Goes (j.produce items) :=
  (Job.goes_mapDecoder _ j).trans (Job.goes_flushOutput _)

theorem Job.goes_reportStop (r : StopReason) (j : Job) : j.Goes (j.reportStop r) := by
  unfold Job.reportStop
  split
  · next h => exact { Job.Goes.refl _ with record := fun hf => hf.calm rfl (by simp [h]) (by simp) }
  · exact Job.Goes.refl j

theorem Job.goes_reportFault (r : FaultRecord) (j : Job) : j.Goes (j.reportFault r) := by
  unfold Job.reportFault
  split
  · exact { Job.Goes.refl _ with record := fun _ => by simp [Job.FaultRecordFits] }
  · exact { Job.Goes.refl _ with record := fun _ => by simp [Job.FaultRecordFits] }
  · exact { Job.Goes.refl _ with record := fun h => by simpa [Job.FaultRecordFits] using h }
  all_goals exact Job.Goes.refl j

theorem Job.goes_stopDecoder (j : Job) : j.Goes j.stopDecoder := Job.goes_mapDecoder _ j

theorem Job.goes_testLimit (ended : Bool) (j : Job) : j.Goes (j.testLimit ended) := by
  unfold Job.testLimit
  split
  · split
    · exact (Job.goes_stopDecoder j).trans (Job.goes_reportStop _ _)
    · split
      · exact (Job.goes_stopDecoder j).trans (Job.goes_reportStop _ _)
      · exact Job.Goes.refl j
  · exact Job.Goes.refl j

theorem Job.goes_dropRecord (j : Job) : j.Goes j.dropRecord :=
  { Job.Goes.refl j with ring := fun h => Nat.le_trans (by simp only [Job.dropRecord, Ring.freeNewest, List.length_take]; omega) h }

theorem Job.goes_decoderFault (c : FaultCode) (n : Option Word16) (b : Option Nat) (p : StreamPlace) (j : Job) :
    j.Goes (j.decoderFault c n b p) :=
  ((Job.goes_dropRecord j).trans (Job.goes_mapDecoder _ _)).trans (Job.goes_reportFault _ _)

/-- What the grammar may do to the ring at a byte: nothing, or one byte pushed into a ring with room. -/
def ParseOutcome.RingGoes (ring : Ring) : ParseOutcome → Prop
  | .done _ ring' _ => ring' = ring ∨ ring.bytes.length < Config.ringBytes ∧ ∃ b, ring' = ring.push b
  | .ringFull => True
  | .fault _ _ _ => True

theorem Decoder.finishDirective_ring (c : SectionContext) (p : PartialDirective) (ring : Ring) (d : Decoder) :
    ∃ d' items, d.finishDirective c p ring = .done d' ring items := by
  unfold Decoder.finishDirective
  dsimp only
  split
  · split
    · exact ⟨_, _, rfl⟩
    · exact ⟨_, _, rfl⟩
  · exact ⟨_, _, rfl⟩

theorem Decoder.nextEdit_ring (c : SectionContext) (p : PartialDirective) (ring : Ring) (d : Decoder) :
    ∃ d' items, d.nextEdit c p ring = .done d' ring items := by
  unfold Decoder.nextEdit
  split
  · exact ⟨_, _, rfl⟩
  · exact d.finishDirective_ring c p ring

/-- After the operand or an edit the ring is as it was handed on. -/
theorem Decoder.nextEdit_ringGoes {c : SectionContext} {p : PartialDirective} {ring ring' : Ring} {d : Decoder}
    (h : ring' = ring ∨ ring.bytes.length < Config.ringBytes ∧ ∃ b, ring' = ring.push b) :
    (d.nextEdit c p ring').RingGoes ring := by
  obtain ⟨d', items, he⟩ := d.nextEdit_ring c p ring'
  rw [he]
  exact h

/-- The increment byte, with the block that it places: as far past the next block due as the increment says (R51, R52). -/
theorem Decoder.incrementByte_eq (c : SectionContext) (p : PartialDirective) (b : Byte) (ring : Ring) (d : Decoder) :
    d.incrementByte c p b ring =
      if b.toNat < 1 ∨ 16 < b.toNat then .fault .badIncrement (some c.number) none
      else if c.start + c.count ≤ c.due + b.toNat - 1 then .fault .blockOverrun (some c.number) (some (c.due + b.toNat - 1))
      else
        match p.kind with
        | .copyKeep => Decoder.nextEdit { c with lastPlaced := some (c.due + b.toNat - 1) }
            { p with increment := b.toNat, block? := some (c.due + b.toNat - 1) } ring
            { d with context := some { c with lastPlaced := some (c.due + b.toNat - 1) } }
        | .copyNew | .self | .fill => .done { d with
            context := some { c with lastPlaced := some (c.due + b.toNat - 1) }
            record := .directive { p with
              increment := b.toNat, block? := some (c.due + b.toNat - 1), stage := .operand [] } } ring []
        | .literal => .done { d with
            context := some { c with lastPlaced := some (c.due + b.toNat - 1) }
            record := .directive { p with
              increment := b.toNat, block? := some (c.due + b.toNat - 1), stage := .literal ring.tailPlace 0 } } ring [] := by
  have hown : (match c.lastPlaced with
      | some l => l + b.toNat
      | none => c.start + b.toNat - 1) = c.due + b.toNat - 1 := by
    unfold SectionContext.due
    cases c.lastPlaced
    · rfl
    · dsimp only
      omega
  rw [← hown]
  cases hk : p.kind <;> simp only [Decoder.incrementByte, hk] <;> rfl

theorem Decoder.incrementByte_ringGoes (c : SectionContext) (p : PartialDirective) (b : Byte) (ring : Ring) (d : Decoder) :
    (d.incrementByte c p b ring).RingGoes ring := by
  rw [Decoder.incrementByte_eq]
  split
  · trivial
  · split
    · trivial
    · cases p.kind with
      | copyKeep => exact Decoder.nextEdit_ringGoes (Or.inl rfl)
      | copyNew | self | fill | literal => exact Or.inl rfl

theorem Decoder.operandByte_ringGoes (c : SectionContext) (p : PartialDirective) (got : Bytes) (ring : Ring) (d : Decoder) :
    (d.operandByte c p got ring).RingGoes ring := by
  unfold Decoder.operandByte
  cases p.kind with
  | copyNew | self =>
    dsimp only
    split
    · exact Or.inl rfl
    · split
      · trivial
      · exact Decoder.nextEdit_ringGoes (Or.inl rfl)
  | copyKeep | literal | fill => exact Decoder.nextEdit_ringGoes (Or.inl rfl)

theorem Decoder.editHeadByte_ringGoes (c : SectionContext) (p : PartialDirective) (got : Bytes) (ring : Ring) (d : Decoder) :
    (d.editHeadByte c p got ring).RingGoes ring := by
  unfold Decoder.editHeadByte
  dsimp only
  split
  · trivial
  · split
    · exact Or.inl rfl
    · split
      · trivial
      · split
        · trivial
        · exact Or.inl rfl

theorem Decoder.directiveByte_ringGoes (c : SectionContext) (p : PartialDirective) (b : Byte) (ring : Ring) (d : Decoder) :
    (d.directiveByte c p b ring).RingGoes ring := by
  unfold Decoder.directiveByte
  split
  · exact d.incrementByte_ringGoes c p b ring
  · exact d.operandByte_ringGoes c p _ ring
  · split
    · trivial
    · next h =>
      dsimp only
      split
      · exact Or.inr ⟨Nat.lt_of_not_le h, b, rfl⟩
      · exact Decoder.nextEdit_ringGoes (Or.inr ⟨Nat.lt_of_not_le h, b, rfl⟩)
  · exact d.editHeadByte_ringGoes c p _ ring
  · split
    · trivial
    · next h =>
      dsimp only
      split
      · exact Or.inr ⟨Nat.lt_of_not_le h, b, rfl⟩
      · exact Decoder.nextEdit_ringGoes (Or.inr ⟨Nat.lt_of_not_le h, b, rfl⟩)

theorem Decoder.parse_ringGoes (length width : Nat) (ring : Ring) (b : Byte) (d : Decoder) :
    (d.parse length width ring b).RingGoes ring := by
  unfold Decoder.parse
  cases d.position with
  | seeking => exact Or.inl rfl
  | endBody =>
    dsimp only
    split
    · exact Or.inl rfl
    · unfold Decoder.endBodyDone
      split
      · trivial
      · split
        · trivial
        · exact Or.inl rfl
  | header =>
    dsimp only
    split
    · exact Or.inl rfl
    · unfold Decoder.headerDone
      dsimp only
      split
      · trivial
      · split
        · trivial
        · exact Or.inl rfl
  | lead =>
    unfold Decoder.leadByte
    dsimp only
    split
    · trivial
    · split
      · trivial
      · exact Or.inl rfl
  | directive =>
    dsimp only
    split
    · exact d.directiveByte_ringGoes _ _ b ring
    · exact Or.inl rfl
  | trailer =>
    dsimp only
    split
    · exact Or.inl rfl
    · split
      · exact Or.inl rfl
      · exact Or.inl rfl
  | markerExpected => trivial

theorem Job.goes_processByte {b : StreamByte} {j j' : Job} (h : j.processByte b = some j') : j.Goes j' := by
  unfold Job.processByte at h
  have hring := j.decoder.parse_ringGoes j.descriptor.targetLength j.descriptor.bandWidth j.ring b.value
  split at h
  · cases h
  · cases h
    exact Job.goes_decoderFault _ _ _ _ _
  · next d ring items hp =>
    cases h
    rw [hp] at hring
    have hparsed : j.Goes { j with decoder := d, ring := ring } :=
      { Job.Goes.refl _ with
          ring := fun hr => by
            rcases hring with rfl | ⟨hlt, b, rfl⟩
            · exact hr
            · simpa [Ring.push] using hlt }
    exact hparsed.trans ((Job.goes_produce _ _).trans (Job.goes_testLimit _ _))

theorem Job.goes_waitBytes (bs : List StreamByte) (j : Job) : j.Goes (j.waitBytes bs) := Job.goes_mapDecoder _ j

theorem Job.goes_processBytes (bs : List StreamByte) : ∀ j : Job, j.Goes (j.processBytes bs) := by
  induction bs with
  | nil => exact fun j => j.goes_waitBytes []
  | cons b rest ih =>
    intro j
    unfold Job.processBytes
    split
    · exact j.goes_waitBytes _
    · split
      · split
        · next j' h => exact (Job.goes_processByte h).trans (ih j')
        · exact j.goes_waitBytes _
      · exact j.goes_waitBytes _

theorem Job.goes_wakeDecoder (j : Job) : j.Goes j.wakeDecoder := by
  unfold Job.wakeDecoder
  refine (Job.goes_flushOutput j).trans (Job.Goes.trans ?_ (Job.goes_processBytes _ _))
  split
  · exact Job.Goes.refl _
  · exact Job.goes_testLimit _ _

theorem Job.goes_matchByte (b : StreamByte) (j : Job) : j.Goes (j.matchByte b) := by
  unfold Job.matchByte
  split
  · exact (Job.goes_mapDecoder _ j).trans (Job.goes_processBytes _ _)
  · refine (Job.goes_mapDecoder (fun d => { d with escape := .clear }) j).trans ?_
    dsimp only
    split
    · split
      · exact Job.goes_mapDecoder (fun _ => _) _
      · exact Job.goes_decoderFault _ _ _ _ _
    · split
      · exact Job.goes_mapDecoder _ _
      · exact Job.goes_decoderFault _ _ _ _ _
  · split
    · exact Job.goes_mapDecoder _ _
    · exact Job.goes_decoderFault _ _ _ _ _

theorem Job.goes_suspendDecoder (j : Job) : j.Goes j.suspendDecoder := by
  unfold Job.suspendDecoder
  dsimp only
  have hsignal : j.Goes { j with signals := { j.signals with suspend := false } } := .own rfl rfl id rfl rfl rfl rfl rfl rfl
  split
  · exact hsignal.trans ((Job.goes_stopDecoder _).trans (Job.goes_reportStop _ _))
  · exact hsignal

theorem Job.goes_haltDecoder (j : Job) : j.Goes j.haltDecoder := .own rfl rfl id rfl rfl rfl rfl rfl rfl

theorem Job.goes_abortDecoder (j : Job) : j.Goes j.abortDecoder := .own rfl rfl id rfl rfl rfl rfl rfl rfl

theorem Job.goes_count (c : JobCounter) (k : Nat) (j : Job) : j.Goes (j.count c k) := by
  unfold Job.count
  split
  · exact Job.Goes.refl j
  · exact { Job.Goes.refl _ with counters := fun h => h.add c k }

theorem Job.goes_discontinuity (j : Job) : j.Goes j.discontinuity := by
  unfold Job.discontinuity
  split
  · exact Job.Goes.refl j
  · dsimp only
    split
    · exact ((Job.goes_dropRecord j).trans (Job.goes_mapDecoder _ _)).trans ((Job.goes_count _ _ _).trans (Job.goes_produce _ _))
    · exact (Job.goes_dropRecord j).trans (Job.goes_mapDecoder _ _)

/-! ### PW -/

/-- The parcel held for a number lies in the number's slot. -/
theorem Window.held?_eq_some {w : Window} {s : Word16} {p : Parcel} :
    w.held? s = some p ↔ w.slots[s.toNat % Config.windowSlots]? = some (some p) ∧ p.sequence = s := by
  unfold Window.held?
  rw [List.getD_eq_getElem?_getD]
  cases hx : w.slots[s.toNat % Config.windowSlots]? with
  | none => simp
  | some slot =>
    cases slot with
    | none => simp
    | some q =>
      simp only [Option.getD_some, Option.some.injEq]
      split
      · next hq =>
        simp only [Option.some.injEq]
        exact ⟨fun h => ⟨h, h ▸ hq⟩, fun h => h.1⟩
      · next hq =>
        constructor
        · intro h
          cases h
        · rintro ⟨rfl, hs⟩
          exact absurd hs hq

/-- The distance from a window moved on by some numbers. -/
theorem Window.distance_toNat (w : Window) (s : Word16) : w.distance s = (65536 - w.base.toNat + s.toNat) % 65536 := by
  unfold Window.distance
  rw [BitVec.toNat_sub]

/-- Two numbers in the window with the same slot are the same number. -/
theorem Window.sequence_unique {w : Window} {s t : Word16} (hs : w.distance s < Config.windowSlots)
    (ht : w.distance t < Config.windowSlots) (h : s.toNat % Config.windowSlots = t.toNat % Config.windowSlots) : s = t := by
  apply BitVec.eq_of_toNat_eq
  have h1 := s.isLt
  have h2 := t.isLt
  have h3 := w.base.isLt
  rw [Window.distance_toNat] at hs ht
  simp only [Config.windowSlots] at hs ht h
  omega

end Sys2Proof.Machine
end

section
/-! The operations of PW, VE, RU, CT and JC in the relation `Job.Goes`, and the laws of every step that follow: the window stays sound, the
fault record fits, CT's lists stay in order, the sizes are kept, and F never falls. -/

namespace Sys2Proof.Machine

/-! ### PW -/

theorem Window.distance_add {w : Window} {s : Word16} {count : Nat} (h : count ≤ w.distance s) (hlt : w.distance s < Config.windowSlots) :
    (s - (w.base + BitVec.ofNat 16 count)).toNat = w.distance s - count := by
  have h2 := s.isLt
  have h3 := w.base.isLt
  rw [Window.distance_toNat] at *
  rw [BitVec.toNat_sub, BitVec.toNat_add, BitVec.toNat_ofNat]
  simp only [Config.windowSlots] at hlt
  omega

/-- A parcel in a slot of a sound window is the one held for its number. -/
theorem Window.Sound.held {w : Window} (h : w.Sound) {i : Nat} {p : Parcel} (hp : w.slots[i]? = some (some p)) :
    w.held? p.sequence = some p := by
  obtain ⟨_, _, hslots, _⟩ := h
  obtain ⟨hi, _, _, _⟩ := hslots i p hp
  rw [Window.held?_eq_some, hi]
  exact ⟨hp, rfl⟩

/-- The number at a distance from B. -/
theorem Window.base_add_distance (w : Window) (s : Word16) : w.base + BitVec.ofNat 16 (w.distance s) = s := by
  apply BitVec.eq_of_toNat_eq
  have h2 := s.isLt
  have h3 := w.base.isLt
  rw [Window.distance_toNat, BitVec.toNat_add, BitVec.toNat_ofNat]
  omega

/-- A window moved on by some numbers, when no parcel is left for any of them, is sound. -/
theorem Window.Sound.moved {w w' : Window} (h : w.Sound) (count : Nat) (hbase : w'.base = w.base + BitVec.ofNat 16 count)
    (hlen : w'.slots.length = w.slots.length) (hhist : w'.history.length ≤ Config.historyLength) (hoff : w'.readOffset = 0)
    (hslots : ∀ (i : Nat) (p : Parcel), w'.slots[i]? = some (some p) → w.slots[i]? = some (some p) ∧ count ≤ w.distance p.sequence) : w'.Sound := by
  obtain ⟨hl, _, hold, _⟩ := h
  have hnew : ∀ (i : Nat) (p : Parcel), w'.slots[i]? = some (some p) → p.sequence.toNat % Config.windowSlots = i
      ∧ w'.distance p.sequence < Config.windowSlots ∧ 1 ≤ p.payload.length ∧ p.payload.length ≤ 512 := by
    intro i p hp
    obtain ⟨hp, hcount⟩ := hslots i p hp
    obtain ⟨hi, hd, hbytes⟩ := hold i p hp
    have hdist : w'.distance p.sequence = w.distance p.sequence - count := by
      rw [← Window.distance_add hcount hd, ← hbase]
      rfl
    exact ⟨hi, by omega, hbytes⟩
  refine ⟨hlen.trans hl, hhist, hnew, fun p hp => ?_⟩
  obtain ⟨hp, _⟩ := Window.held?_eq_some.mp hp
  obtain ⟨_, _, hone, _⟩ := hnew _ p hp
  rw [hoff]
  exact hone

theorem Window.remember_length (fates : List Fate) (w : Window) : (w.remember fates).length ≤ Config.historyLength := by
  simp [Window.remember]

theorem Window.Sound.consume {w : Window} (h : w.Sound) : w.consume.Sound := by
  refine h.moved 1 rfl (by simp [Window.consume]) (w.remember_length _) rfl fun i p hp => ?_
  obtain ⟨_, _, hold, _⟩ := h
  simp only [Window.consume, List.getElem?_set] at hp
  split at hp
  · split at hp <;> cases hp
  · next hne =>
    refine ⟨hp, ?_⟩
    obtain ⟨hi, _⟩ := hold i p hp
    refine Nat.pos_of_ne_zero fun hz => hne ?_
    have := w.base_add_distance p.sequence
    rw [hz] at this
    rw [← hi, ← this]
    simp

theorem Window.Sound.takeByte {w w' : Window} (h : w.Sound) {b : StreamByte} (ht : w.takeByte = some (b, w')) : w'.Sound := by
  unfold Window.takeByte at ht
  split at ht
  · cases ht
  · next p hp =>
    split at ht
    · cases ht
    · cases ht
      split
      · next hlt =>
        obtain ⟨hl, hh, hslots, _⟩ := h
        refine ⟨hl, hh, hslots, fun q hq => ?_⟩
        have : some q = some p := hq.symm.trans hp
        cases this
        exact hlt
      · exact h.consume

theorem Window.lowestHeld_spec {w : Window} {count : Nat} : w.lowestHeld = some count ↔
    count < 16 ∧ (w.held? (w.base + BitVec.ofNat 16 count)).isSome = true ∧
      ∀ k, k < count → w.held? (w.base + BitVec.ofNat 16 k) = none := by
  unfold Window.lowestHeld
  rw [List.find?_range_eq_some]
  simp only [List.mem_range, Config.windowSlots, Bool.not_eq_eq_eq_not, Bool.not_true, Option.isSome_eq_false_iff, Option.isNone_iff_eq_none]
  tauto

theorem Window.Sound.skip {w : Window} (h : w.Sound) {count : Nat} (hc : w.lowestHeld = some count) : (w.skip count).Sound := by
  refine h.moved count rfl rfl (w.remember_length _) rfl fun i p hp => ⟨hp, ?_⟩
  obtain ⟨_, _, hnone⟩ := Window.lowestHeld_spec.mp hc
  refine Nat.le_of_not_lt fun hlt => ?_
  have hheld := hnone _ hlt
  rw [w.base_add_distance, h.held hp] at hheld
  cases hheld

theorem Window.Sound.store {w : Window} (h : w.Sound) {p : Parcel} (hd : w.distance p.sequence < Config.windowSlots)
    (hlen : 1 ≤ p.payload.length ∧ p.payload.length ≤ 512) : (w.store p).Sound := by
  obtain ⟨hl, hh, hslots, hread⟩ := h
  refine ⟨by simpa [Window.store] using hl, hh, fun i q hq => ?_, fun q hq => ?_⟩
  · simp only [Window.store, List.getElem?_set] at hq
    split at hq
    · next hi =>
      split at hq
      · cases hq
        exact ⟨hi, hd, hlen⟩
      · cases hq
    · exact hslots i q hq
  · obtain ⟨hq, hs⟩ := Window.held?_eq_some.mp hq
    simp only [Window.store, List.getElem?_set] at hq
    split at hq
    · next hi =>
      split at hq
      · cases hq
        show (if p.sequence = w.base then 0 else w.readOffset) < _
        rw [if_pos (show p.sequence = w.base from hs)]
        exact hlen.1
      · cases hq
    · next hi =>
      have hne : p.sequence ≠ w.base := fun he => hi (by rw [he])
      show (if p.sequence = w.base then 0 else w.readOffset) < _
      rw [if_neg hne]
      exact hread q (Window.held?_eq_some.mpr ⟨hq, hs⟩)

/-- A verdict TAKEN means that the number lies in the window (R61). -/
theorem Window.distance_of_taken {w : Window} {s : Word16} (h : w.verdict s = .taken) : w.distance s < Config.windowSlots := by
  unfold Window.verdict at h
  dsimp only at h
  split at h
  · assumption
  · split at h
    · cases h
    · split at h
      · cases h
      · split at h <;> cases h

theorem Job.goes_settleGapTimer (j : Job) : j.Goes j.settleGapTimer := .own rfl rfl id rfl rfl rfl rfl rfl rfl

theorem Job.goes_takeParcel {p : Parcel} (hlen : 1 ≤ p.payload.length ∧ p.payload.length ≤ 512) (j : Job) :
    j.Goes (j.takeParcel p).1 := by
  have hstored : j.Goes (if j.window.verdict p.sequence = .taken then { j with window := j.window.store p } else j) := by
    split
    · next ht => exact { Job.Goes.refl _ with window := fun hw => hw.store (Window.distance_of_taken ht) hlen }
    · exact Job.Goes.refl j
  unfold Job.takeParcel
  dsimp only
  generalize (if j.window.verdict p.sequence = .taken then { j with window := j.window.store p } else j) = stored at hstored ⊢
  refine hstored.trans (Job.Goes.trans ?_ (Job.goes_settleGapTimer _))
  split
  · exact Job.goes_count _ _ _
  · exact Job.Goes.refl _

theorem Job.goes_takeByte (j : Job) : j.Goes j.takeByte := by
  unfold Job.takeByte
  split
  · split
    · next b w h =>
      have hw : j.Goes { j with window := w } := { Job.Goes.refl _ with window := fun hs => hs.takeByte h }
      exact hw.trans (Job.goes_matchByte _ _)
    · exact Job.Goes.refl j
  · exact Job.Goes.refl j

theorem Job.goes_expireGap (j : Job) : j.Goes j.expireGap.job := by
  unfold Job.expireGap
  split
  · next ms count _ hc =>
    have hw : j.Goes { j with window := j.window.skip count } := { Job.Goes.refl _ with window := fun hs => hs.skip hc }
    exact hw.trans ((Job.goes_count _ _ _).trans (Job.goes_discontinuity _))
  · exact Job.Goes.refl j

/-! ### VE -/

theorem Verifier.beginTask_tasks (first : Nat) (o : Bool) (v : Verifier) : (v.beginTask first o).tasks = v.tasks := by
  unfold Verifier.beginTask
  split
  · rfl
  · split <;> rfl

theorem Job.goes_beginTask (o : Bool) (j : Job) : j.Goes (j.beginTask o) :=
  { Job.Goes.refl j with
      tasks := fun h => by
        show (j.verifier.beginTask _ o).tasks.length ≤ _
        rw [Verifier.beginTask_tasks]
        exact h }

/-- A task joins a queue with a place. -/
theorem Verifier.hasPlace_iff {v : Verifier} : v.hasPlace = true ↔ v.tasks.length < Config.taskPlaces := by
  simp [Verifier.hasPlace]

theorem Verifier.join_length {t : DigestTask} {v : Verifier} (h : v.hasPlace = true) : (v.join t).tasks.length ≤ Config.taskPlaces := by
  have := Verifier.hasPlace_iff.mp h
  simpa [Verifier.join] using this

theorem Job.goes_handOff (j : Job) : j.Goes j.handOff := by
  unfold Job.handOff
  split
  · split
    · next h => exact { Job.Goes.refl _ with tasks := fun _ => Verifier.join_length h }
    · exact Job.Goes.refl j
  · exact Job.Goes.refl j

/-- The tasks after a cancellation are those that do not cover the block. -/
theorem Verifier.cancel_tasks (b : Nat) (o : Bool) (v : Verifier) : (v.cancel b o).tasks = v.tasks.filter (fun t => !t.covers b) := by
  unfold Verifier.cancel
  dsimp only
  split <;> rfl

theorem Job.goes_cancelTasks (b : Nat) (o : Bool) (j : Job) : j.Goes (j.cancelTasks b o) := by
  have hcancel : j.Goes (j.mapVerifier (Verifier.cancel b o)) :=
    { Job.Goes.refl _ with
        tasks := fun h => by
          show (j.verifier.cancel b o).tasks.length ≤ _
          rw [Verifier.cancel_tasks]
          exact Nat.le_trans (List.length_filter_le _ _) h }
  exact (hcancel.trans (Job.goes_handOff _)).trans (Job.goes_beginTask _ _)

theorem Job.goes_endTask (j : Job) : j.Goes j.endTask := by
  have hdrop : j.Goes (j.mapVerifier (fun v => { v with tasks := v.tasks.drop 1, progress := none })) :=
    { Job.Goes.refl _ with
        tasks := fun h => by
          simp only [Job.mapVerifier_verifier, List.length_drop]
          omega }
  exact (hdrop.trans (Job.goes_handOff _)).trans (Job.goes_beginTask _ _)

/-- A change of VE's own state that keeps its tasks. -/
theorem Job.goes_mapVerifier {f : Verifier → Verifier} (j : Job) (h : (f j.verifier).tasks = j.verifier.tasks) :
    j.Goes (j.mapVerifier f) :=
  { Job.Goes.refl j with
      tasks := by
        rw [Job.mapVerifier_verifier, h]
        exact id }

theorem Work.goes_account {a : Account} {w : Work} (h : w.job.tracker.Goes a.tracker) : w.job.Goes (w.account a).job := by
  obtain ⟨ns, he, _⟩ := w.account_spec a
  rw [he]
  exact { Job.Goes.refl _ with tracker := h }

theorem Work.report_job (n : Notice) (w : Work) : (w.report n).job = w.job := by
  unfold Work.report
  split <;> rfl

theorem Work.goes_taskEnds (t : DigestTask) (outcome : TaskOutcome) (w : Work) : w.job.Goes (w.taskEnds t outcome).job := by
  have haccount : w.job.Goes (w.account (w.job.tracker.sectionResult t.start t.count outcome)).job :=
    Work.goes_account (Tracker.goes_sectionResult _ _ _ _)
  unfold Work.taskEnds
  cases outcome with
  | isMatch => exact haccount.trans (Job.goes_endTask _)
  | mismatch =>
    refine haccount.trans (Job.Goes.trans ?_ (Job.goes_endTask _))
    dsimp only
    rw [Work.report_job]
    exact Job.goes_count _ _ _
  | check b =>
    refine haccount.trans (Job.Goes.trans ?_ (Job.goes_endTask _))
    dsimp only
    rw [Work.report_job]
    exact Job.Goes.refl _

theorem Work.goes_taskRead (t : DigestTask) (p : TaskProgress) (data : Option Bytes) (w : Work) :
    w.job.Goes (w.taskRead t p data).job := by
  unfold Work.taskRead
  cases data with
  | none => exact Work.goes_taskEnds _ _ _
  | some bytes =>
    dsimp only
    split
    · exact Work.goes_taskEnds _ _ _
    · exact .own rfl rfl id rfl rfl rfl rfl rfl rfl

theorem Work.goes_closeEnds {phase : JobPhase} (h : phase ≠ .quiescing ∧ phase ≠ .faulted) (n : Notice) (w : Work) :
    w.job.Goes (w.closeEnds phase n).job := by
  unfold Work.closeEnds
  dsimp only
  split
  · next hp => exact { Job.Goes.refl _ with record := fun hf => hf.calm rfl (by simp only [Work.map_job, Job.mapVerifier_phase] at hp; simp [hp]) h }
  · exact .own rfl rfl id rfl rfl rfl rfl rfl rfl

theorem Work.goes_closeRead (c : CloseOperation) (data : Option Bytes) (w : Work) : w.job.Goes (w.closeRead c data).job := by
  unfold Work.closeRead
  cases data with
  | none => exact (Work.goes_account (Tracker.goes_closeCheck _ _)).trans (Work.goes_closeEnds (by simp) _ _)
  | some bytes =>
    dsimp only
    split
    · split
      · exact (Work.goes_account (Tracker.goes_closeMatch _)).trans (Work.goes_closeEnds (by simp) _ _)
      · exact Work.goes_closeEnds (by simp) _ _
    · exact .own rfl rfl id rfl rfl rfl rfl rfl rfl

theorem Job.goes_discardedRead (j : Job) : j.Goes j.discardedRead := by
  have hbegun : j.Goes ((j.mapVerifier (fun v => { v with discarded := false })).beginTask false) :=
    (Job.goes_mapVerifier j rfl).trans (Job.goes_beginTask _ _)
  unfold Job.discardedRead
  dsimp only
  split
  · exact hbegun.trans (.own rfl rfl id rfl rfl rfl rfl rfl rfl)
  · exact hbegun

theorem Work.goes_verifierRead (data : Option Bytes) (w : Work) : w.job.Goes (w.verifierRead data).job := by
  unfold Work.verifierRead
  dsimp only
  split
  · exact Job.goes_discardedRead _
  · split
    · exact Work.goes_closeRead _ _ _
    · exact Work.goes_taskRead _ _ _ _
    · exact Job.Goes.refl _

theorem Job.goes_stopVerifier (o : Bool) (j : Job) : j.Goes (j.stopVerifier o) :=
  { Job.Goes.refl j with tasks := fun _ => by simp [Job.stopVerifier] }

/-! ### RU -/

theorem Job.goes_mapUnit (f : ReconUnit → ReconUnit) (j : Job) : j.Goes (j.mapUnit f) := .own rfl rfl id rfl rfl rfl rfl rfl rfl

/-- An event that changes the job in its part. -/
theorem Work.goes_map {f : Job → Job} (h : ∀ j : Job, j.Goes (f j)) (w : Work) : w.job.Goes (w.map f).job := h w.job

theorem Job.goes_unitFault (code : FaultCode) (n : Option Word16) (b : Nat) (j : Job) : j.Goes (j.unitFault code n b) :=
  (Job.goes_mapUnit _ j).trans (Job.goes_reportFault _ _)

theorem Job.goes_startItemBlock (c : CurrentItem) (j : Job) : j.Goes (j.startItemBlock c) := by
  unfold Job.startItemBlock
  split
  · split
    · exact Job.goes_mapUnit _ j
    · exact Job.goes_unitFault _ _ _ j
  · exact Job.goes_mapUnit _ j
  · exact Job.goes_mapUnit _ j
  · exact Job.Goes.refl j
  · exact Job.Goes.refl j

theorem Job.goes_holdItem (a : Activity) (c : CurrentItem) (j : Job) : j.Goes (j.holdItem a c) :=
  (Job.goes_mapUnit _ j).trans (Job.goes_startItemBlock _ _)

theorem Job.goes_nextBlock (c : CurrentItem) (j : Job) : j.Goes (j.nextBlock c) := by
  unfold Job.nextBlock
  refine (Job.goes_mapUnit (fun u => { u with item := some { c with next := c.next + 1 }, block := none }) j).trans ?_
  dsimp only
  split
  · exact Job.goes_startItemBlock _ _
  · exact Job.goes_mapUnit _ _
  · exact Job.goes_mapUnit _ _

theorem Job.goes_blockRead (k : BlockInHand) (data : Option Bytes) (j : Job) : j.Goes (j.blockRead k data) := by
  unfold Job.blockRead
  split
  · exact Job.goes_unitFault _ _ _ j
  · exact Job.goes_mapUnit _ j

theorem Job.goes_unitStopped (j : Job) : j.Goes j.unitStopped := .own rfl rfl id rfl rfl rfl rfl rfl rfl

theorem Job.goes_unitRead (data : Option Bytes) (j : Job) : j.Goes (j.unitRead data) := by
  unfold Job.unitRead
  split
  · dsimp only
    split
    · exact (Job.goes_mapUnit _ _).trans (Job.goes_unitStopped _)
    · exact Job.goes_mapUnit _ _
  · split
    · exact Job.goes_blockRead _ _ _
    · exact Job.Goes.refl _

theorem Job.goes_restartMonitor (j : Job) : j.Goes j.restartMonitor := by
  rw [Job.restartMonitor_eq]
  exact .own rfl rfl id rfl rfl rfl rfl rfl rfl

theorem Job.goes_recordCarry (k : BlockInHand) (j : Job) : j.Goes (j.recordCarry k) := by
  unfold Job.recordCarry
  split
  · exact Job.goes_mapUnit _ _
  · exact Job.goes_mapUnit _ _
  all_goals exact Job.Goes.refl _

theorem Job.goes_finishItem (item : Item) (j : Job) : j.Goes (j.finishItem item) :=
  { Job.Goes.refl j with
      ring := fun h => by
        simp only [Job.finishItem, Ring.freeOldest, List.length_drop]
        omega }

theorem Job.goes_recordEnd (digest : Word32) (j : Job) : j.Goes (j.recordEnd digest) := by
  unfold Job.recordEnd
  split
  · exact Job.Goes.refl _
  · exact .own rfl rfl id rfl rfl rfl rfl rfl rfl

theorem Job.goes_finishHoleItem (item : Item) (j : Job) : j.Goes (j.finishHoleItem item) := by
  unfold Job.finishHoleItem
  split
  · split
    · exact Job.goes_finishItem _ _
    · exact (Job.goes_recordEnd _ _).trans (Job.goes_finishItem _ _)
  all_goals exact Job.goes_finishItem _ _

theorem Job.goes_advanceItem (c : CurrentItem) (j : Job) : j.Goes (j.advanceItem c) := by
  unfold Job.advanceItem
  split
  · exact Job.goes_nextBlock _ _
  · split
    · exact (Job.goes_mapUnit _ _).trans (Job.goes_finishItem _ _)
    all_goals exact Job.goes_finishHoleItem _ _

theorem Work.goes_takeHole {item : Item} {start : Nat} {whenNone : Work → Work} (hnone : ∀ w : Work, w.job.Goes (whenNone w).job) (w : Work) :
    w.job.Goes (w.takeHole item start whenNone).job := by
  unfold Work.takeHole
  have haccount := Work.goes_account (w := w) (Tracker.goes_holeRequest start w.job.tracker)
  dsimp only
  split
  · exact haccount.trans (hnone _)
  · exact haccount.trans (Job.goes_holdItem _ _ _)

theorem Job.goes_takeSectionEnd (item : Item) (o : Bool) (j : Job) : j.Goes (j.takeSectionEnd item o) := by
  unfold Job.takeSectionEnd
  dsimp only
  refine (Job.goes_count .sectionsCompleted 1 j).trans ?_
  split
  · exact Job.Goes.refl _
  · split
    · next h =>
      have hjoin (t : DigestTask) : (j.count .sectionsCompleted 1).Goes ((j.count .sectionsCompleted 1).mapVerifier (Verifier.join t)) :=
        { Job.Goes.refl _ with tasks := fun _ => Verifier.join_length h }
      exact (hjoin _).trans (Job.goes_beginTask _ _)
    · exact Job.goes_mapUnit _ _

theorem Work.goes_beginItem (item : Item) (o : Bool) (w : Work) : w.job.Goes (w.beginItem item o).job := by
  unfold Work.beginItem
  split
  · exact (Work.goes_map (fun j => Job.goes_mapUnit _ j) w).trans (Work.goes_takeHole (fun w => Job.Goes.refl w.job) _)
  · exact Work.goes_map (fun j => Job.goes_holdItem _ _ j) w
  · exact Work.goes_map (fun j => Job.goes_takeSectionEnd _ _ j) w
  · exact Work.goes_map (fun j => Job.goes_mapUnit _ j) w
  · exact Work.goes_takeHole (fun w => Job.goes_recordEnd _ _) _

theorem Job.goes_takeItem (first o : Bool) (j : Job) : j.Goes (j.takeItem first o).job := by
  unfold Job.takeItem
  split
  · exact Job.Goes.refl j
  · next item rest hq =>
    have hrest : j.Goes { j with queue := rest } :=
      { Job.Goes.refl _ with
          queue := fun h => by
            rw [hq, List.length_cons] at h
            exact Nat.le_of_succ_le h }
    refine hrest.trans ?_
    dsimp only
    split
    · exact (Job.goes_wakeDecoder _).trans (Work.goes_beginItem item o ⟨_, []⟩)
    · exact (Work.goes_beginItem item o ⟨{ j with queue := rest }, []⟩).trans (Job.goes_wakeDecoder _)

theorem Work.goes_endFill (filled : Nat) (w : Work) : w.job.Goes (w.endFill filled).job := by
  unfold Work.endFill
  dsimp only
  split
  · next hp => exact { Job.Goes.refl _ with record := fun hf => hf.calm rfl (by simp only [Work.map_job, Job.mapUnit_phase] at hp; simp [hp]) (by simp) }
  · exact .own rfl rfl id rfl rfl rfl rfl rfl rfl

theorem Work.goes_continueFill (f : FillOperation) (w : Work) : w.job.Goes (w.continueFill f).job := by
  unfold Work.continueFill
  split
  · exact Work.goes_endFill _ _
  · exact Work.goes_map (fun j => Job.goes_mapUnit _ j) w

theorem Job.goes_beginFill (f : FillOperation) {j : Job} (h : j.phase = .ready) : j.Goes (j.beginFill f).job := by
  have hserve : j.Goes ({ j with phase := .servicing }.mapUnit (fun u => { u with activity := .fill })) :=
    { Job.Goes.refl _ with record := fun hf => hf.calm rfl (by simp [h]) (by simp) }
  exact hserve.trans (Work.goes_continueFill f ⟨_, []⟩)

theorem Work.goes_reportBlock (k : BlockInHand) (w : Work) : w.job.Goes (w.reportBlock k).job := by
  unfold Work.reportBlock
  split
  all_goals first
    | exact Work.goes_account (Tracker.goes_writeReport _ _ _)
    | exact Work.goes_account (Tracker.goes_fillReport _ _ _)

theorem Work.goes_advance (k : BlockInHand) (w : Work) : w.job.Goes (w.advance k).job := by
  unfold Work.advance
  split
  · exact Work.goes_continueFill _ _
  · exact Job.Goes.refl _
  · exact Job.goes_advanceItem _ _
  · exact Job.Goes.refl _

theorem Work.goes_unitWrite (o : Bool) (w : Work) : w.job.Goes (w.unitWrite o).job := by
  unfold Work.unitWrite
  split
  · exact Job.Goes.refl _
  · next k _ =>
    refine (w.goes_reportBlock k).trans ((Work.goes_map (fun j => ?_) _).trans ((Work.goes_advance k _).trans
      (Work.goes_map (fun j => ?_) _)))
    · exact (((Job.goes_cancelTasks _ _ _).trans (Job.goes_restartMonitor _)).trans (Job.goes_count _ _ _)).trans
        ((Job.goes_recordCarry _ _).trans (Job.goes_mapUnit _ _))
    · refine Job.Goes.trans ?_ (Job.goes_wakeDecoder _)
      split
      · exact Job.goes_unitStopped _
      · exact Job.Goes.refl _

theorem Job.goes_takeQuiescing (j : Job) : j.Goes j.takeQuiescing := by
  unfold Job.takeQuiescing
  dsimp only
  split
  · exact .own rfl rfl id rfl rfl rfl rfl rfl rfl
  · exact .own rfl rfl id rfl rfl rfl rfl rfl rfl

theorem Job.goes_stopUnit (o : Bool) (j : Job) : j.Goes (j.stopUnit o) := by
  unfold Job.stopUnit
  dsimp only
  split
  · exact .own rfl rfl id rfl rfl rfl rfl rfl rfl
  · exact .own rfl rfl id rfl rfl rfl rfl rfl rfl

theorem Job.goes_expireMonitor (j : Job) : j.Goes j.expireMonitor.job :=
  (Job.goes_mapUnit _ j).trans (Job.goes_count _ _ _)

/-! ### CT and JC -/

theorem Job.goes_scanVisit {j : Job} (h : j.canScan = true) : j.Goes j.scanVisit.job := by
  have hp : j.phase = .servicing := by
    simp only [Job.canScan, Bool.and_eq_true, beq_iff_eq] at h
    exact h.1
  unfold Job.scanVisit
  split
  · exact Job.Goes.refl j
  · next sc hsc =>
    have hstep := Tracker.goes_scanStep hsc
    split
    · next t ht =>
      rw [ht] at hstep
      exact { Job.Goes.refl _ with tracker := hstep }
    · next a ha =>
      rw [ha] at hstep
      obtain ⟨ns, he, _⟩ := (Work.mk j []).account_spec a
      rw [he]
      exact { Job.Goes.refl _ with tracker := hstep, record := fun hf => hf.calm rfl (by simp [hp]) (by simp [Work.endScan]) }

theorem Job.goes_stopScan (j : Job) : j.Goes j.stopScan :=
  { Job.Goes.refl j with tracker := Tracker.goes_stopScan _ }

theorem Work.goes_testDrain (w : Work) : w.job.Goes w.testDrain.job := by
  unfold Work.testDrain
  split
  · next h =>
    have hready : w.job.Goes { w.job with phase := .ready } :=
      { Job.Goes.refl _ with record := fun hf => hf.calm rfl (by simp [h.1]) (by simp) }
    dsimp only
    split
    · exact hready
    · exact hready
  · exact Job.Goes.refl _

theorem Work.goes_testQuiesce (o : Bool) (w : Work) : w.job.Goes (w.testQuiesce o).job := by
  unfold Work.testQuiesce
  split
  · next h =>
    have hfaulted : w.job.Goes { w.job with phase := .faulted } :=
      { Job.Goes.refl _ with
          record := fun hf => by
            unfold Job.FaultRecordFits at hf ⊢
            simp [hf, h.1] }
    dsimp only
    split
    · exact hfaulted
    · exact hfaulted
  · exact Job.Goes.refl _

theorem Job.goes_settleTimers (j : Job) : j.Goes j.settleTimers := by
  rw [Job.settleTimers_eq]
  exact .own rfl rfl id rfl rfl rfl rfl rfl rfl

theorem Work.goes_settle (o : Bool) (w : Work) : w.job.Goes (w.settle o).job :=
  ((w.goes_testDrain).trans (Work.goes_testQuiesce o _)).trans (Job.goes_settleTimers _)

/-! ### Requests -/

theorem Job.goes_run (limit : Limit) {j : Job} (h : j.phase = .ready) : j.Goes (j.run limit) := by
  have hrunning : j.Goes ({ j with phase := .running }.mapDecoder (Decoder.begin limit)) :=
    { Job.Goes.refl _ with record := fun hf => hf.calm rfl (by simp [h]) (by simp) }
  refine hrunning.trans (Job.Goes.trans ?_ (Job.goes_wakeDecoder _))
  unfold Job.startMonitor
  split
  · exact Job.Goes.refl _
  · exact Job.goes_mapUnit _ _

theorem Job.goes_pause {j : Job} (h : j.phase = .running) : j.Goes j.pause :=
  { Job.Goes.refl j with record := fun hf => hf.calm rfl (by simp [h]) (by simp [Job.pause]) }

theorem Job.goes_recover (j : Job) : j.Goes j.recover :=
  { Job.Goes.refl j with
    record := fun _ => by simp [Job.FaultRecordFits, Job.recover]
    queue := fun _ => by simp [Job.recover]
    ring := fun _ => by simp [Job.recover, Ring.empty] }

theorem Job.goes_beginAbort (j : Job) : j.Goes j.beginAbort := by
  rw [Job.beginAbort_eq]
  exact { Job.Goes.refl _ with record := fun _ => by simp [Job.FaultRecordFits] }

theorem Job.goes_stopAtOnce (n : Nat) (ru ve : Bool) (j : Job) : j.Goes (j.stopAtOnce n ru ve) := by
  unfold Job.stopAtOnce
  have h1 : j.Goes (if Config.decoderStopsAtOnce n then j.abortDecoder else j) := by
    split
    · exact j.goes_abortDecoder
    · exact Job.Goes.refl j
  have h2 (j : Job) : j.Goes (if Config.unitStopsAtOnce n then j.stopUnit ru else j) := by
    split
    · exact j.goes_stopUnit ru
    · exact Job.Goes.refl j
  have h3 (j : Job) : j.Goes (if Config.verifierStopsAtOnce n then j.stopVerifier ve else j) := by
    split
    · exact j.goes_stopVerifier ve
    · exact Job.Goes.refl j
  have h4 (j : Job) : j.Goes (if Config.scanStopsAtOnce n then j.stopScan else j) := by
    split
    · exact j.goes_stopScan
    · exact Job.Goes.refl j
  exact ((h1.trans (h2 _)).trans (h3 _)).trans (h4 _)

/-! ### Every work at the job -/

theorem JobEvent.goes {s : State} {j : Job} {w : Work} (h : JobEvent s j w) : j.Goes w.job := by
  cases h with
  | takeByte _ => exact j.goes_takeByte
  | suspend _ => exact j.goes_suspendDecoder
  | halt _ => exact j.goes_haltDecoder
  | decoderStop _ => exact j.goes_abortDecoder
  | gapExpiry _ => exact j.goes_expireGap
  | quiescing _ => exact j.goes_takeQuiescing
  | unitStop _ => exact j.goes_stopUnit _
  | monitorExpiry _ => exact j.goes_expireMonitor
  | verifierStop _ => exact j.goes_stopVerifier _
  | scanVisit h => exact Job.goes_scanVisit h
  | scanStop _ => exact j.goes_stopScan

theorem StoreEvent.goes {s : State} {j : Job} {st : Store} {w : Work} (h : StoreEvent s j st w) : j.Goes w.job := by
  cases h with
  | takeItem first _ => exact j.goes_takeItem first _
  | unitRead i data _ => exact j.goes_unitRead data
  | unitWrite i content _ => exact Work.goes_unitWrite false ⟨j, []⟩
  | verifierRead i data _ => exact Work.goes_verifierRead data ⟨j, []⟩

theorem Settles.goes {s : State} {j : Job} {flight : Option Transaction} {w : Work} (h : Settles s j flight w) : j.Goes w.job := by
  cases h with
  | event w h => exact h.goes
  | store st w h => exact h.goes
  | ran j' h =>
    cases h with
    | run limit h => exact Job.goes_run limit h
    | pause h => exact Job.goes_pause h
  | filled body f hp hf => exact Job.goes_beginFill f hp

theorem Direct.goes {s : State} {j j' : Job} (h : Direct s j j') : j.Goes j' := by
  cases h with
  | requested j' h =>
    cases h with
    | recover h => exact j.goes_recover
    | parcel p hlen h => exact j.goes_takeParcel hlen
    | repairScan h =>
      exact { Job.Goes.refl _ with tracker := Tracker.goes_startScan _, record := fun hf => hf.calm rfl (by simp [h]) (by simp) }
  | waived body r hp hr => exact { Job.Goes.refl _ with tracker := Tracker.goes_waive _ _ }
  | closing expected hp ht =>
    exact { Job.Goes.refl _ with record := fun hf => hf.calm rfl (by simp [hp]) (by simp [Job.beginClose]) }

/-- A law that every operation keeps is a law of the job. -/
theorem jobLaw_of_goes {P : Job → Prop} (h : ∀ j j' : Job, j.Goes j' → P j → P j') : JobLaw P where
  direct _ _ _ hd := h _ _ hd.goes
  settled _ _ _ _ hs := h _ _ (hs.goes.trans (Work.goes_settle _ _))
  aborted _ _ _ _ _ := h _ _ ((Job.goes_beginAbort _).trans (Job.goes_stopAtOnce _ _ _ _))
  unitGranted _ := h _ _ (Job.goes_mapUnit _ _)
  verifierGranted _ := h _ _ (Job.goes_mapVerifier _ rfl)

/-! ### The laws -/

theorem Window.start_sound (first : Word16) : (Window.start first).Sound := by
  have hnone : ∀ (i : Nat) (p : Parcel), (Window.start first).slots[i]? ≠ some (some p) := by
    intro i p h
    have := List.mem_of_getElem? h
    simp [Window.start] at this
  refine ⟨by simp [Window.start], by simp [Window.start], fun i p h => absurd h (hnone i p), fun p h => ?_⟩
  exact absurd (Window.held?_eq_some.mp h).1 (hnone _ p)

/-- Settles O53: PW's operations keep the window sound, and no other operation touches it. -/
theorem stepKeepsWindowSound : Obligations.StepKeepsWindowSound := by
  unfold Obligations.StepKeepsWindowSound
  intro s t h hs
  exact (jobLaw_of_goes (P := fun j => j.window.Sound) fun j j' hg => hg.window).step (fun _ d _ => Window.start_sound _) hs h

theorem Job.start_inCapacity (d : Descriptor) : (Job.start d).InCapacity := by
  rw [Job.inCapacity_iff]
  refine ⟨by simp [Job.start], by simp [Job.start, Ring.empty], by simp [Job.start], ?_⟩
  simp [Job.start, JobCounters.zero, JobCounters.InWidth]

/-- Settles O56: the link's counters and the job's sizes are each kept by every operation. -/
theorem stepKeepsSizes : Obligations.StepKeepsSizes := by
  unfold Obligations.StepKeepsSizes
  intro s t hl h hs
  refine ⟨linkLaw_countersInWidth.step hs hl, ?_⟩
  refine (jobLaw_of_goes (P := Job.InCapacity) fun j j' hg hj => ?_).step (fun _ d _ => Job.start_inCapacity d) hs h
  rw [Job.inCapacity_iff] at hj ⊢
  obtain ⟨hq, hr, ht, hc⟩ := hj
  exact ⟨hg.queue hq, hg.ring hr, hg.tasks ht, hg.counters hc⟩

/-- Settles O58: every operation keeps the descriptor and lets F stay or rise. -/
theorem frontierNeverFalls : Obligations.FrontierNeverFalls := by
  unfold Obligations.FrontierNeverFalls
  intro c s t j j' he hj hj'
  refine (jobLaw_of_goes (P := fun k => j.tracker.frontier ≤ k.tracker.frontier ∧ k.descriptor = j.descriptor) ?_).happened
    (exec_happened he) (fun hnone => ?_) ?_ j' hj'
  · intro k k' hg ⟨hf, hd⟩
    exact ⟨Nat.le_trans hf hg.tracker.frontier, hg.descriptor.trans hd⟩
  · rw [hj] at hnone
    cases hnone
  · intro k hk
    rw [hj] at hk
    cases hk
    exact ⟨Nat.le_refl _, rfl⟩

/-- CT's lists stay in order at every step: the first part of O55. -/
theorem step_listsInOrder {s t : State} (h : s.jobHas (fun j => j.tracker.ListsInOrder)) (hs : step s = .next t) :
    t.jobHas (fun j => j.tracker.ListsInOrder) :=
  (jobLaw_of_goes (P := fun j => j.tracker.ListsInOrder) fun j j' hg => hg.tracker.lists).step
    (fun _ d _ => ⟨rangesInOrder_nil, fun sc hsc => by cases hsc⟩) hs h

/-! ### The timers (R70, R119) -/

/-- Timers that are off where no run is on. -/
theorem Job.timersFit_off {j : Job} (hp : j.phase.inRun = false) (hg : j.window.gapTimer = .idle) (hm : j.unit.monitor = .stopped) :
    j.TimersFit := ⟨by simp [hg, hp], fun _ => hm⟩

/-- Outside a run the timers are off. -/
theorem Job.TimersFit.off {j : Job} (h : j.TimersFit) (hp : j.phase.inRun = false) :
    j.window.gapTimer = .idle ∧ j.unit.monitor = .stopped := by
  obtain ⟨hg, hm⟩ := h
  refine ⟨?_, hm hp⟩
  by_contra hne
  have := (hg.mp hne).1
  simp [hp] at this

/-- The timers fit the job state after an event, whatever the event has done. -/
theorem Job.settleTimers_timersFit (j : Job) : j.settleTimers.TimersFit := by
  rw [Job.settleTimers_eq]
  unfold Job.TimersFit
  have hgap (timer : GapTimer) : Window.gap { j.window with gapTimer := timer } = j.window.gap := rfl
  cases hp : j.phase.inRun
  · simp
  · cases hw : j.window.gap
    · simp [hgap, hw]
    · cases ht : j.window.gapTimer <;> simp [hgap, hw]

/-- A PARCEL settles the gap hold timer itself. -/
theorem Job.TimersFit.takeParcel {j : Job} (h : j.TimersFit) (p : Parcel) : (j.takeParcel p).1.TimersFit := by
  have hpart : ∃ j' : Job, (j.takeParcel p).1 = j'.settleGapTimer ∧ j'.phase = j.phase ∧ j'.unit = j.unit := by
    unfold Job.takeParcel
    refine ⟨_, rfl, ?_⟩
    have hstore : ∃ window, (if j.window.verdict p.sequence = .taken then { j with window := j.window.store p } else j)
        = { j with window := window } := by
      split
      · exact ⟨_, rfl⟩
      · exact ⟨j.window, rfl⟩
    obtain ⟨window, hw⟩ := hstore
    rw [hw]
    split
    · next c _ =>
      obtain ⟨counters, hc⟩ := Job.count_eq c 1 { j with window := window }
      rw [hc]
      exact ⟨rfl, rfl⟩
    · exact ⟨rfl, rfl⟩
  obtain ⟨j', he, hphase, hunit⟩ := hpart
  rw [he]
  refine ⟨?_, fun hp => ?_⟩
  · have := (Job.settleTimers_timersFit j').1
    rw [Job.settleTimers_eq] at this
    exact this
  · show j'.unit.monitor = .stopped
    rw [hunit]
    exact h.2 (hphase ▸ hp)

theorem Direct.timersFit {s : State} {j j' : Job} (h : Direct s j j') (hj : j.TimersFit) : j'.TimersFit := by
  cases h with
  | requested j' h =>
    cases h with
    | recover h =>
      obtain ⟨hg, hm⟩ := hj.off (by rw [h]; rfl)
      exact Job.timersFit_off rfl hg hm
    | parcel p _ _ => exact hj.takeParcel p
    | repairScan h =>
      obtain ⟨hg, hm⟩ := hj.off (by rw [h]; rfl)
      exact Job.timersFit_off rfl hg hm
  | waived body r hp hr => exact hj
  | closing expected hp ht =>
    obtain ⟨hg, hm⟩ := hj.off (by rw [hp]; rfl)
    exact Job.timersFit_off rfl hg hm

/-- ABORT's own event leaves both timers off. -/
theorem Job.abort_timersFit (n : Nat) (ru ve : Bool) (j : Job) : (j.beginAbort.stopAtOnce n ru ve).TimersFit := by
  rw [Job.beginAbort_eq]
  unfold Job.stopAtOnce Job.stopUnit
  cases Config.decoderStopsAtOnce n <;> cases Config.unitStopsAtOnce n <;> cases Config.verifierStopsAtOnce n <;>
    cases Config.scanStopsAtOnce n <;> cases ru <;> exact Job.timersFit_off rfl rfl rfl

theorem jobLaw_timersFit : JobLaw Job.TimersFit where
  direct _ _ _ := Direct.timersFit
  settled _ _ _ _ _ _ := Job.settleTimers_timersFit _
  aborted n ru ve j _ _ := Job.abort_timersFit n ru ve j
  unitGranted _ h := h
  verifierGranted _ h := h

/-- Settles O54: the record fits through every operation, and the timers are settled at the end of every event. -/
theorem stepKeepsRecordAndTimers : Obligations.StepKeepsRecordAndTimers := by
  unfold Obligations.StepKeepsRecordAndTimers
  refine ⟨fun s t h hs => ?_, fun s t h hs => ?_⟩
  · exact (jobLaw_of_goes fun j j' hg => hg.record).step (fun _ d _ => by simp [Job.FaultRecordFits, Job.start]) hs h
  · exact jobLaw_timersFit.step (fun _ d _ => Job.timersFit_off rfl rfl rfl) hs h

end Sys2Proof.Machine
end

section
/-! SD's processing as a run of single steps: the inversion of its operations for the laws of the stream path. Each step says what SD did:
a byte parsed with its items, output pushed, a stop, a fault, bytes left waiting, the escape state moved, a record opened. -/

namespace Sys2Proof.Machine

/-- One step of SD's processing. -/
inductive Decodes (j : Job) : Job → Prop
  | parsed (b : Byte) (d : Decoder) (ring : Ring) (items : List Item) (hr : j.decoder.running = true)
      (hp : j.decoder.parse j.descriptor.targetLength j.descriptor.bandWidth j.ring b = .done d ring items) :
      Decodes j { j with decoder := { d with waitingOutput := d.waitingOutput ++ items }, ring := ring }
  | flushed : Decodes j j.flushOutput
  | stopped (reason : StopReason) (hr : j.decoder.running = true) : Decodes j (j.stopDecoder.reportStop reason)
  | faulted (code : FaultCode) (number : Option Word16) (block : Option Nat) (place : StreamPlace) (hr : j.decoder.running = true) :
      Decodes j (j.decoderFault code number block place)
  | waits (bs : List StreamByte) : Decodes j (j.waitBytes bs)
  | escaped (e : Escape) : Decodes j { j with decoder := { j.decoder with escape := e } }
  | opened (opensSection : Bool) (d : Decoder) (h : j.decoder.marker opensSection = some d) : Decodes j { j with decoder := d }

/-- A run of steps of SD's processing. -/
abbrev DecodesAll : Job → Job → Prop := Relation.ReflTransGen Decodes

/-- A law that each step keeps is kept by a run. -/
theorem DecodesAll.keeps {P : Job → Prop} (h : ∀ j j', Decodes j j' → P j → P j') {j j' : Job} (hrun : DecodesAll j j') (hj : P j) :
    P j' := by
  induction hrun with
  | refl => exact hj
  | tail _ hstep ih => exact h _ _ hstep ih

theorem Job.testLimit_decodes (ended : Bool) (j : Job) : DecodesAll j (j.testLimit ended) := by
  unfold Job.testLimit
  split
  · next h =>
    have hr : j.decoder.running = true := (Bool.and_eq_true_iff.mp h).1
    split
    · exact .single (.stopped _ hr)
    · split
      · exact .single (.stopped _ hr)
      · exact .refl
  · exact .refl

theorem Job.processByte_decodes {b : StreamByte} {j j' : Job} (hr : j.decoder.running = true) (h : j.processByte b = some j') :
    DecodesAll j j' := by
  unfold Job.processByte at h
  split at h
  · cases h
  · cases h
    exact .single (.faulted _ _ _ _ hr)
  · next d ring items hp =>
    cases h
    exact (Relation.ReflTransGen.single (Decodes.parsed b.value d ring items hr hp)).trans
      ((Relation.ReflTransGen.single Decodes.flushed).trans (Job.testLimit_decodes _ _))

theorem Job.processBytes_decodes (bs : List StreamByte) : ∀ j : Job, DecodesAll j (j.processBytes bs) := by
  induction bs with
  | nil => exact fun j => .single (.waits [])
  | cons b rest ih =>
    intro j
    unfold Job.processBytes
    split
    · exact .single (.waits [])
    · split
      · next h =>
        split
        · next j' hb => exact (Job.processByte_decodes (Bool.and_eq_true_iff.mp h).1 hb).trans (ih j')
        · exact .single (.waits _)
      · exact .single (.waits _)

theorem Job.wakeDecoder_decodes (j : Job) : DecodesAll j j.wakeDecoder := by
  unfold Job.wakeDecoder
  refine (Relation.ReflTransGen.single Decodes.flushed).trans (Relation.ReflTransGen.trans ?_ (Job.processBytes_decodes _ _))
  split
  · exact .refl
  · exact Job.testLimit_decodes _ _

theorem Job.matchByte_decodes (b : StreamByte) {j : Job} (hr : j.decoder.running = true) : DecodesAll j (j.matchByte b) := by
  have hclear : DecodesAll j (j.mapDecoder (fun d => { d with escape := .clear })) := .single (.escaped .clear)
  unfold Job.matchByte
  split
  · next e bytes _ => exact (Relation.ReflTransGen.single (Decodes.escaped e)).trans (Job.processBytes_decodes _ _)
  · refine hclear.trans ?_
    dsimp only
    split
    · split
      · next d hd => exact .single (.opened _ d hd)
      · exact .single (.faulted _ _ _ _ hr)
    · split
      · exact .single (.escaped _)
      · exact .single (.faulted _ _ _ _ hr)
  · split
    · exact .single (.escaped _)
    · exact .single (.faulted _ _ _ _ hr)

/-- Taking a byte: the window moves on, and SD processes. -/
theorem Job.takeByte_decodes {j : Job} (h : j.canTakeByte = true) : ∃ window, DecodesAll { j with window := window } j.takeByte := by
  have hr : j.decoder.running = true := by
    simp only [Job.canTakeByte, Bool.and_eq_true] at h
    exact h.1.1.1
  unfold Job.takeByte
  rw [if_pos h]
  split
  · next b w _ => exact ⟨w, Job.matchByte_decodes b (j := { j with window := w }) hr⟩
  · exact ⟨j.window, .refl⟩

/-! ### The cases of the grammar -/

/-- What a byte that is not at fault can come to in the grammar, by where SD stands (R48 to R57, R79). The first two constructors are a
byte passed over and a byte that joins the record in hand. -/
inductive Parsed (length : Nat) (ring : Ring) (d : Decoder) : Decoder → Ring → List Item → Prop
  | kept : Parsed length ring d d ring []
  | held (got : Bytes) : Parsed length ring d { d with record := .bytes got } ring []
  | ended (digest : Word32) : Parsed length ring d { d with position := .seeking, record := .nothing } ring [.imageEnd digest]
  | begun (number : Word16) (start count : Nat) (hasDigest : Bool) (h : start + count ≤ length) : Parsed length ring d
      { d with position := .lead, record := .nothing, context := some ⟨number, start, count, hasDigest, none, true, false⟩ } ring
      [.sectionBegin start]
  | led (kind : DirectiveKind) (edits : Nat) (h : d.position = .lead) : Parsed length ring d
      { d with position := .directive, record := .directive ⟨kind, edits, 0, none, .copyKeep, 0, [], 0, .increment⟩ } ring []
  | inside (c : SectionContext) (p : PartialDirective) (d' : Decoder) (ring' : Ring) (items : List Item)
      (hd : d.position = .directive) (hc : d.context = some c) (hrec : d.record = .directive p) (b : Byte)
      (h : d.directiveByte c p b ring = .done d' ring' items) : Parsed length ring d d' ring' items
  | trailed (c : SectionContext) (digest : Word32) (hd : d.position = .trailer) (hc : d.context = some c) : Parsed length ring d
      { d with position := .markerExpected, record := .nothing, context := some { c with endPushed := true } } ring
      [.sectionEnd c.number c.start c.count (some digest)]

/-- The grammar in cases. -/
theorem Decoder.parse_cases {length width : Nat} {ring ring' : Ring} {b : Byte} {d d' : Decoder} {items : List Item}
    (h : d.parse length width ring b = .done d' ring' items) : Parsed length ring d d' ring' items := by
  unfold Decoder.parse at h
  dsimp only at h
  split at h
  · cases h
    exact .kept
  · split at h
    · cases h
      exact .held _
    · unfold Decoder.endBodyDone at h
      split at h
      · cases h
      · split at h
        · cases h
        · cases h
          exact .ended _
  · split at h
    · cases h
      exact .held _
    · unfold Decoder.headerDone at h
      dsimp only at h
      split at h
      · cases h
      · split at h
        · cases h
        · next hrange =>
          cases h
          exact .begun _ _ _ _ (by omega)
  · next hpos =>
    unfold Decoder.leadByte at h
    dsimp only at h
    split at h
    · cases h
    · split at h
      · cases h
      · cases h
        exact .led _ _ hpos
  · next hpos =>
    split at h
    · next c p hc hrec => exact .inside c p d' ring' items hpos hc hrec b h
    · cases h
      exact .kept
  · next hpos =>
    split at h
    · cases h
      exact .held _
    · split at h
      · next c hc =>
        cases h
        exact .trailed c _ hpos hc
      · cases h
        exact .kept
  · cases h

/-- What a byte inside a directive can come to: the directive goes on, placed or already placed, or it is complete with its item. -/
inductive Directed (c : SectionContext) (p : PartialDirective) (d : Decoder) : Decoder → List Item → Prop
  | placed (p' : PartialDirective) (i : Nat) (hs : p.stage = .increment) (hi : 1 ≤ i) (hlt : c.due + i - 1 < c.start + c.count)
      (hb : p'.block? = some (c.due + i - 1)) (hinc : p'.increment = i) (hs' : p'.stage ≠ .increment) :
      Directed c p d { d with
        context := some { c with lastPlaced := some (c.due + i - 1) }, record := .directive p' } []
  | goesOn (p' : PartialDirective) (hs : p.stage ≠ .increment) (hb : p'.block? = p.block?) (hinc : p'.increment = p.increment)
      (hs' : p'.stage ≠ .increment) : Directed c p d { d with record := .directive p' } []
  | finished (c' : SectionContext) (p' : PartialDirective) (d' : Decoder) (items : List Item)
      (h : (p.stage = .increment ∧ ∃ i, 1 ≤ i ∧ c.due + i - 1 < c.start + c.count ∧
          c' = { c with lastPlaced := some (c.due + i - 1) } ∧ p'.block? = some (c.due + i - 1) ∧ p'.increment = i) ∨
        p.stage ≠ .increment ∧ c' = c ∧ p'.block? = p.block? ∧ p'.increment = p.increment)
      (ring' : Ring) (hf : Decoder.finishDirective c' p' ring' { d with context := some c' } = .done d' ring' items) :
      Directed c p d d' items

/-- After the operand or an edit of a placed directive. -/
theorem Decoder.nextEdit_directed {c : SectionContext} {p p' : PartialDirective} {ring ring' : Ring} {d d' : Decoder}
    {items : List Item} (h : d.nextEdit c p' ring = .done d' ring' items) (hc : d.context = some c) (hs : p.stage ≠ .increment)
    (hb : p'.block? = p.block?) (hinc : p'.increment = p.increment) : Directed c p d d' items := by
  unfold Decoder.nextEdit at h
  split at h
  · cases h
    exact .goesOn _ hs hb hinc (by simp)
  · have hd : d = { d with context := some c } := by rw [← hc]
    obtain ⟨d'', items', he⟩ := d.finishDirective_ring c p' ring
    rw [he] at h
    cases h
    rw [hd] at he
    exact .finished c p' d' items (Or.inr ⟨hs, rfl, hb, hinc⟩) ring he

/-- A byte inside a directive in cases. -/
theorem Decoder.directiveByte_cases {c : SectionContext} {p : PartialDirective} {b : Byte} {ring ring' : Ring} {d d' : Decoder}
    {items : List Item} (hc : d.context = some c) (h : d.directiveByte c p b ring = .done d' ring' items) :
    Directed c p d d' items := by
  unfold Decoder.directiveByte at h
  split at h
  · next hs =>
    rw [Decoder.incrementByte_eq] at h
    split at h
    · cases h
    · next hb =>
      split at h
      · cases h
      · next hlt =>
        have hi : 1 ≤ b.toNat := by omega
        have hlt : c.due + b.toNat - 1 < c.start + c.count := Nat.lt_of_not_le hlt
        cases hk : p.kind with
        | copyKeep =>
          simp only [hk, Decoder.nextEdit] at h
          split at h
          · cases h
            exact .placed _ b.toNat hs hi hlt rfl rfl (by simp)
          · exact .finished _ _ d' items (Or.inl ⟨hs, b.toNat, hi, hlt, rfl, rfl, rfl⟩) ring (by
              obtain ⟨d'', items', he⟩ := Decoder.finishDirective_ring { c with lastPlaced := some (c.due + b.toNat - 1) }
                { p with increment := b.toNat, block? := some (c.due + b.toNat - 1) } ring
                { d with context := some { c with lastPlaced := some (c.due + b.toNat - 1) } }
              rw [hk] at he
              rw [he] at h
              cases h
              exact he)
        | copyNew | self | fill | literal =>
          simp only [hk] at h
          cases h
          exact .placed _ b.toNat hs hi hlt rfl rfl (by simp)
  · next got hs =>
    have hs : p.stage ≠ .increment := by simp [hs]
    unfold Decoder.operandByte at h
    cases hk : p.kind with
    | copyNew | self =>
      simp only [hk] at h
      split at h
      · cases h
        exact .goesOn _ hs rfl rfl (by simp)
      · split at h
        · cases h
        · exact Decoder.nextEdit_directed h hc hs rfl rfl
    | copyKeep | literal | fill =>
      simp only [hk] at h
      exact Decoder.nextEdit_directed h hc hs rfl rfl
  · next place taken hs =>
    have hs : p.stage ≠ .increment := by simp [hs]
    split at h
    · cases h
    · dsimp only at h
      split at h
      · cases h
        exact .goesOn _ hs rfl rfl (by simp)
      · exact Decoder.nextEdit_directed h hc hs rfl rfl
  · next got hs =>
    have hs : p.stage ≠ .increment := by simp [hs]
    unfold Decoder.editHeadByte at h
    dsimp only at h
    split at h
    · cases h
    · split at h
      · cases h
        exact .goesOn _ hs rfl rfl (by simp)
      · split at h
        · cases h
        · split at h
          · cases h
          · cases h
            exact .goesOn _ hs rfl rfl (by simp)
  · next offset length place taken hs =>
    have hs : p.stage ≠ .increment := by simp [hs]
    split at h
    · cases h
    · dsimp only at h
      split at h
      · cases h
        exact .goesOn _ hs rfl rfl (by simp)
      · exact Decoder.nextEdit_directed h hc hs rfl rfl

end Sys2Proof.Machine
end

section
/-! RU writes the target region only (R99, R105): every block number on the stream path, from SD's record to RU's store request, is a target
block. The law is taken apart by the blocks of the part that hold the numbers, and each operation keeps its part. -/

namespace Sys2Proof.Machine

/-! ### The law by parts -/

/-- The target region of a descriptor has blocks and lies in the store (R1). -/
def Descriptor.Fits (d : Descriptor) : Prop := 1 ≤ d.targetLength ∧ d.targetFirst + d.targetLength ≤ Config.storeBlocks

/-- The map is as long as the target, and F is at most its end. -/
def Tracker.InTarget (n : Nat) (t : Tracker) : Prop := t.map.length = n ∧ t.frontier ≤ n

/-- SD's context, record and waiting output name target blocks. -/
def Decoder.InTarget (n : Nat) (d : Decoder) : Prop :=
  (∀ c, d.context = some c → c.start + c.count ≤ n) ∧ d.record.inTarget n ∧ ∀ i ∈ d.waitingOutput, i.inTarget n

/-- RU's item, block, fill and request name target blocks. -/
def ReconUnit.InTarget (d : Descriptor) (u : ReconUnit) : Prop :=
  (∀ c, u.item = some c → c.inTarget d.targetLength) ∧ (∀ k, u.block = some k → k.target < d.targetLength) ∧
    (∀ f, u.fill = some f → f.first + f.count ≤ d.targetLength) ∧ ∀ op, u.waiting = some op → op.inTarget d

/-- SD's state and the queue name target blocks. -/
def Job.StreamInTarget (n : Nat) (j : Job) : Prop := j.decoder.InTarget n ∧ ∀ i ∈ j.queue, i.inTarget n

theorem Job.inTarget_iff (j : Job) : j.InTarget ↔ j.descriptor.Fits ∧ j.tracker.InTarget j.descriptor.targetLength ∧
    j.StreamInTarget j.descriptor.targetLength ∧ j.unit.InTarget j.descriptor := by
  unfold Job.InTarget Descriptor.Fits Tracker.InTarget Job.StreamInTarget Decoder.InTarget ReconUnit.InTarget
  dsimp only
  constructor
  · rintro ⟨h1, h2, h3, h4, h5, h6, h7, h8, h9, h10, h11, h12⟩
    exact ⟨⟨h1, h2⟩, ⟨h3, h4⟩, ⟨⟨h5, h6, h8⟩, h7⟩, h9, h10, h11, h12⟩
  · rintro ⟨⟨h1, h2⟩, ⟨h3, h4⟩, ⟨⟨h5, h6, h8⟩, h7⟩, h9, h10, h11, h12⟩
    exact ⟨h1, h2, h3, h4, h5, h6, h7, h8, h9, h10, h11, h12⟩

/-! ### SD -/

theorem SectionContext.due_ge (n : Nat) (c : SectionContext) (h : c.start + c.count ≤ n) {own : Nat} (hlt : own < c.start + c.count) :
    own < n := Nat.lt_of_lt_of_le hlt h

/-- A complete directive gives items that name target blocks. -/
theorem Decoder.finishDirective_inTarget {n : Nat} (hn : 1 ≤ n) {c : SectionContext} {p : PartialDirective} {ring ring' : Ring}
    {d d' : Decoder} {items : List Item} (hd : d.InTarget n) (hc : c.start + c.count ≤ n) (hb : ∀ b, p.block? = some b → b < n)
    (hinc : 1 ≤ p.increment) (h : d.finishDirective c p ring = .done d' ring' items) :
    d'.InTarget n ∧ ∀ i ∈ items, i.inTarget n := by
  obtain ⟨hctx, _, hout⟩ := hd
  have hitem : (Item.block ⟨c.number, p.block?.getD 0, p.increment, p.directive, p.edits⟩).inTarget n := by
    refine ⟨?_, hinc⟩
    cases hp : p.block? with
    | none => exact hn
    | some b => exact hb b hp
  unfold Decoder.finishDirective at h
  dsimp only at h
  split at h
  · split at h
    · cases h
      exact ⟨⟨hctx, trivial, hout⟩, by simpa using hitem⟩
    · cases h
      refine ⟨⟨fun c' hc' => ?_, trivial, hout⟩, ?_⟩
      · cases hc'
        exact hc
      · intro i hi
        rcases List.mem_pair.mp hi with rfl | rfl
        · exact hitem
        · exact hc
  · cases h
    exact ⟨⟨hctx, trivial, hout⟩, by simpa using hitem⟩

/-- A byte inside a directive keeps SD's block numbers in the target. -/
theorem Directed.inTarget {n : Nat} (hn : 1 ≤ n) {c : SectionContext} {p : PartialDirective} {d d' : Decoder} {items : List Item}
    (h : Directed c p d d' items) (hd : d.InTarget n) (hc : d.context = some c) (hp : d.record = .directive p) :
    d'.InTarget n ∧ ∀ i ∈ items, i.inTarget n := by
  obtain ⟨hctx, hrec, hout⟩ := hd
  have hcn := hctx c hc
  rw [hp] at hrec
  obtain ⟨hblock, hstage⟩ := hrec
  cases h with
  | placed p' i hs hi hlt hb hinc hs' =>
    refine ⟨⟨fun c' hc' => ?_, ⟨fun b hb' => ?_, Or.inr (hinc ▸ hi)⟩, hout⟩, by simp⟩
    · cases hc'
      exact hcn
    · rw [hb] at hb'
      cases hb'
      exact Nat.lt_of_lt_of_le hlt hcn
  | goesOn p' hs hb hinc hs' =>
    exact ⟨⟨hctx, ⟨hb ▸ hblock, Or.inr (hinc ▸ hstage.resolve_left hs)⟩, hout⟩, by simp⟩
  | finished c' p' d' items h ring' hf =>
    have hc' : c'.start + c'.count ≤ n := by
      rcases h with ⟨_, i, _, _, rfl, _⟩ | ⟨_, rfl, _⟩ <;> exact hcn
    have hb' : ∀ b, p'.block? = some b → b < n := by
      rcases h with ⟨_, i, _, hlt, _, hb, _⟩ | ⟨_, _, hb, _⟩
      · intro b hb'
        rw [hb] at hb'
        cases hb'
        exact Nat.lt_of_lt_of_le hlt hcn
      · rw [hb]
        exact hblock
    have hinc' : 1 ≤ p'.increment := by
      rcases h with ⟨_, i, hi, _, _, _, hinc⟩ | ⟨hs, _, _, hinc⟩
      · exact hinc ▸ hi
      · exact hinc ▸ hstage.resolve_left hs
    refine Decoder.finishDirective_inTarget (d := { d with context := some c' }) hn ⟨fun c'' hc'' => ?_, ?_, hout⟩ hc' hb' hinc' hf
    · cases hc''
      exact hc'
    · show d.record.inTarget n
      rw [hp]
      exact ⟨hblock, hstage⟩

/-- A byte in the grammar keeps SD's block numbers in the target. -/
theorem Parsed.inTarget {n : Nat} (hn : 1 ≤ n) {ring ring' : Ring} {d d' : Decoder} {items : List Item}
    (h : Parsed n ring d d' ring' items) (hd : d.InTarget n) : d'.InTarget n ∧ ∀ i ∈ items, i.inTarget n := by
  have ⟨hctx, hrec, hout⟩ := hd
  cases h with
  | kept => exact ⟨hd, by simp⟩
  | held got => exact ⟨⟨hctx, trivial, hout⟩, by simp⟩
  | ended digest => exact ⟨⟨hctx, trivial, hout⟩, by simp [Item.inTarget]⟩
  | begun number start count hasDigest h =>
    refine ⟨⟨fun c hc => ?_, trivial, hout⟩, ?_⟩
    · cases hc
      exact h
    · intro i hi
      obtain rfl := List.mem_singleton.mp hi
      exact Nat.le_of_add_right_le h
  | led kind edits h => exact ⟨⟨hctx, ⟨fun b hb => (by cases hb), Or.inl rfl⟩, hout⟩, by simp⟩
  | inside c p d' ring' items hpos hc hrec b h => exact (Decoder.directiveByte_cases hc h).inTarget hn hd hc hrec
  | trailed c digest hpos hc =>
    have hcn := hctx c hc
    refine ⟨⟨fun c' hc' => ?_, trivial, hout⟩, ?_⟩
    · cases hc'
      exact hcn
    · intro i hi
      obtain rfl := List.mem_singleton.mp hi
      exact hcn

/-- The output waiting when a byte has been parsed is that waiting before. -/
theorem Parsed.waitingOutput {n : Nat} {ring ring' : Ring} {d d' : Decoder} {items : List Item} (h : Parsed n ring d d' ring' items) :
    d'.waitingOutput = d.waitingOutput := by
  cases h with
  | inside c p d' ring' items hpos hc hrec b h =>
    cases Decoder.directiveByte_cases hc h with
    | finished c' p' d' items h ring' hf =>
      unfold Decoder.finishDirective at hf
      dsimp only at hf
      split at hf
      · split at hf <;> (cases hf; rfl)
      · cases hf
        rfl
    | _ => rfl
  | _ => rfl

/-- SD's decoder and queue after a fault report are those before it, whoever reports. -/
theorem Job.reportFault_frame (r : FaultRecord) (j : Job) : ∃ phase faultRecord decoderQuiet halt quiescing,
    j.reportFault r = { j with
      phase := phase, faultRecord := faultRecord, decoderQuiet := decoderQuiet
      signals := { j.signals with halt := halt, quiescing := quiescing } } ∧ (phase = .aborting ↔ j.phase = .aborting) := by
  unfold Job.reportFault
  split
  · next hp => exact ⟨_, _, _, _, _, rfl, by simp [hp]⟩
  · next hp => exact ⟨_, _, _, _, _, rfl, by simp [hp]⟩
  · exact ⟨j.phase, _, j.decoderQuiet, j.signals.halt, j.signals.quiescing, rfl, Iff.rfl⟩
  all_goals exact ⟨j.phase, j.faultRecord, j.decoderQuiet, j.signals.halt, j.signals.quiescing, rfl, Iff.rfl⟩

/-- A stop report changes the job state and the stop reason only, and neither in ABORTING. -/
theorem Job.reportStop_frame (r : StopReason) (j : Job) : ∃ phase stopReason,
    j.reportStop r = { j with phase := phase, stopReason := stopReason } ∧ (phase = .aborting ↔ j.phase = .aborting) := by
  unfold Job.reportStop
  split
  · next h => exact ⟨_, _, rfl, by simp [h]⟩
  · exact ⟨j.phase, j.stopReason, rfl, Iff.rfl⟩

/-- A step of SD keeps SD's block numbers in the target. -/
theorem Decodes.streamInTarget {j j' : Job} (h : Decodes j j') (hn : 1 ≤ j.descriptor.targetLength)
    (hj : j.StreamInTarget j.descriptor.targetLength) : j'.StreamInTarget j.descriptor.targetLength := by
  have ⟨⟨hctx, hrec, hout⟩, hqueue⟩ := hj
  cases h with
  | parsed b d ring items hr hp =>
    have hparsed := Decoder.parse_cases hp
    obtain ⟨⟨hctx', hrec', hout'⟩, hitems⟩ := hparsed.inTarget hn ⟨hctx, hrec, hout⟩
    refine ⟨⟨hctx', hrec', fun i hi => ?_⟩, hqueue⟩
    rcases List.mem_append.mp hi with hi | hi
    · exact hout' i hi
    · exact hitems i hi
  | flushed =>
    refine ⟨⟨hctx, hrec, fun i hi => hout i (List.mem_of_mem_drop hi)⟩, fun i hi => ?_⟩
    rcases List.mem_append.mp hi with hi | hi
    · exact hqueue i hi
    · exact hout i (List.mem_of_mem_take hi)
  | stopped reason hr =>
    obtain ⟨phase, stopReason, he, _⟩ := j.stopDecoder.reportStop_frame reason
    rw [he]
    exact hj
  | faulted code number block place hr =>
    unfold Job.decoderFault
    obtain ⟨phase, faultRecord, quiet, halt, quiescing, he, _⟩ := Job.reportFault_frame (.first code number block (some place))
      (j.dropRecord.mapDecoder (fun d => { d with running := false, faultMark := true, escape := .clear, waitingBytes := [] }))
    rw [he]
    exact ⟨⟨hctx, trivial, hout⟩, hqueue⟩
  | waits bs => exact hj
  | escaped e => exact hj
  | opened o d h =>
    unfold Decoder.marker at h
    split at h <;> cases h
    all_goals exact ⟨⟨hctx, trivial, hout⟩, hqueue⟩

/-! ### The relations between a job and the job after an operation -/

/-- What an operation keeps that may start a block of RU's: the law of the block numbers, and what RU's ABORT stop rests on. -/
structure Job.Starts (j j' : Job) : Prop where
  target : j.InTarget → j'.InTarget
  clear : j'.unitClear = j.unitClear
  stop : j'.signals.unitStop = j.signals.unitStop
  order : j'.unit.order = j.unit.order
  aborting : j'.phase = .aborting ↔ j.phase = .aborting
  fill : j.unit.fill = none → j'.unit.fill = none

/-- What an operation keeps that starts no block of RU's: its store request besides. -/
structure Job.Keeps (j j' : Job) : Prop where
  starts : j.Starts j'
  waiting : j'.unit.waiting = j.unit.waiting

theorem Job.Starts.refl (j : Job) : j.Starts j := ⟨id, rfl, rfl, rfl, Iff.rfl, id⟩

theorem Job.Starts.trans {a b c : Job} (h : a.Starts b) (g : b.Starts c) : a.Starts c :=
  ⟨g.target ∘ h.target, g.clear.trans h.clear, g.stop.trans h.stop, g.order.trans h.order, g.aborting.trans h.aborting,
    g.fill ∘ h.fill⟩

theorem Job.Keeps.refl (j : Job) : j.Keeps j := ⟨.refl j, rfl⟩

theorem Job.Keeps.trans {a b c : Job} (h : a.Keeps b) (g : b.Keeps c) : a.Keeps c :=
  ⟨h.starts.trans g.starts, g.waiting.trans h.waiting⟩

/-- An operation that leaves RU, CT, SD and the queue as they are, and is not ABORT. -/
theorem Job.Keeps.own {j j' : Job} (hd : j'.descriptor = j.descriptor) (ht : j'.tracker = j.tracker) (hdec : j'.decoder = j.decoder)
    (hq : j'.queue = j.queue) (hu : j'.unit = j.unit) (hclear : j'.unitClear = j.unitClear)
    (hstop : j'.signals.unitStop = j.signals.unitStop) (habort : j'.phase = .aborting ↔ j.phase = .aborting) : j.Keeps j' := by
  refine ⟨⟨fun h => ?_, hclear, hstop, by rw [hu], habort, by rw [hu]; exact id⟩, by rw [hu]⟩
  rw [Job.inTarget_iff] at h ⊢
  unfold Job.StreamInTarget at h ⊢
  rw [hd, ht, hdec, hq, hu]
  exact h

/-- A change of SD and the queue that keeps their block numbers in the target. -/
theorem Job.Keeps.stream {j j' : Job} (hd : j'.descriptor = j.descriptor) (ht : j'.tracker = j.tracker) (hu : j'.unit = j.unit)
    (hclear : j'.unitClear = j.unitClear) (hstop : j'.signals.unitStop = j.signals.unitStop)
    (habort : j'.phase = .aborting ↔ j.phase = .aborting)
    (hs : 1 ≤ j.descriptor.targetLength → j.StreamInTarget j.descriptor.targetLength → j'.StreamInTarget j.descriptor.targetLength) :
    j.Keeps j' := by
  refine ⟨⟨fun h => ?_, hclear, hstop, by rw [hu], habort, by rw [hu]; exact id⟩, by rw [hu]⟩
  rw [Job.inTarget_iff] at h ⊢
  obtain ⟨hfit, htr, hst, hun⟩ := h
  rw [hd, ht, hu]
  exact ⟨hfit, htr, hs hfit.1 hst, hun⟩

/-- A change of RU's state. -/
theorem Job.starts_unit {j : Job} {u : ReconUnit} (ho : u.order = j.unit.order) (hf : j.unit.fill = none → u.fill = none)
    (ht : j.InTarget → u.InTarget j.descriptor) : j.Starts { j with unit := u } := by
  refine ⟨fun h => ?_, rfl, rfl, ho, Iff.rfl, hf⟩
  have hu := ht h
  rw [Job.inTarget_iff] at h ⊢
  obtain ⟨hfit, htr, hst, _⟩ := h
  exact ⟨hfit, htr, hst, hu⟩

/-- RU's numbers are in the target when each of them was, or is gone. -/
theorem ReconUnit.InTarget.mono {d : Descriptor} {u u' : ReconUnit} (h : u.InTarget d) (hi : u'.item = u.item ∨ u'.item = none)
    (hb : u'.block = u.block ∨ u'.block = none) (hf : u'.fill = u.fill ∨ u'.fill = none)
    (hw : u'.waiting = u.waiting ∨ u'.waiting = none) : u'.InTarget d := by
  obtain ⟨h1, h2, h3, h4⟩ := h
  refine ⟨?_, ?_, ?_, ?_⟩
  · rcases hi with hi | hi <;> rw [hi]
    · exact h1
    · simp
  · rcases hb with hb | hb <;> rw [hb]
    · exact h2
    · simp
  · rcases hf with hf | hf <;> rw [hf]
    · exact h3
    · simp
  · rcases hw with hw | hw <;> rw [hw]
    · exact h4
    · simp

theorem Job.InTarget.unit {j : Job} (h : j.InTarget) : j.unit.InTarget j.descriptor := ((Job.inTarget_iff j).mp h).2.2.2

/-- A change of RU's state that names no new block. -/
theorem Job.keeps_unit {j : Job} {u : ReconUnit} (ho : u.order = j.unit.order) (hi : u.item = j.unit.item ∨ u.item = none)
    (hb : u.block = j.unit.block ∨ u.block = none) (hf : u.fill = j.unit.fill ∨ u.fill = none)
    (hw : u.waiting = j.unit.waiting) : j.Keeps { j with unit := u } :=
  ⟨Job.starts_unit ho (fun h => by rcases hf with hf | hf <;> rw [hf]; exact h)
    (fun h => h.unit.mono hi hb hf (Or.inl hw)), hw⟩

/-! ### SD's steps and orders, and JC -/

theorem Job.keeps_reportFault (r : FaultRecord) (j : Job) : j.Keeps (j.reportFault r) := by
  obtain ⟨phase, faultRecord, quiet, halt, quiescing, he, ha⟩ := j.reportFault_frame r
  rw [he]
  exact .own rfl rfl rfl rfl rfl rfl rfl ha

theorem Job.keeps_reportStop (r : StopReason) (j : Job) : j.Keeps (j.reportStop r) := by
  obtain ⟨phase, stopReason, he, ha⟩ := j.reportStop_frame r
  rw [he]
  exact .own rfl rfl rfl rfl rfl rfl rfl ha

theorem Job.keeps_stopDecoder (j : Job) : j.Keeps j.stopDecoder := .stream rfl rfl rfl rfl rfl Iff.rfl fun _ h => h

theorem Decodes.keeps {j j' : Job} (h : Decodes j j') : j.Keeps j' := by
  have hs := h.streamInTarget
  cases h with
  | parsed b d ring items hr hp => exact .stream rfl rfl rfl rfl rfl Iff.rfl hs
  | flushed => exact .stream rfl rfl rfl rfl rfl Iff.rfl hs
  | stopped reason hr => exact (Job.keeps_stopDecoder j).trans (Job.keeps_reportStop _ _)
  | faulted code number block place hr =>
    refine Job.Keeps.trans ?_ (Job.keeps_reportFault _ _)
    exact .stream rfl rfl rfl rfl rfl Iff.rfl fun _ ⟨⟨hctx, _, hout⟩, hq⟩ => ⟨⟨hctx, trivial, hout⟩, hq⟩
  | waits bs => exact .stream rfl rfl rfl rfl rfl Iff.rfl hs
  | escaped e => exact .stream rfl rfl rfl rfl rfl Iff.rfl hs
  | opened o d h => exact .stream rfl rfl rfl rfl rfl Iff.rfl hs

theorem DecodesAll.jobKeeps {j j' : Job} (h : DecodesAll j j') : j.Keeps j' :=
  h.keeps (P := fun k => j.Keeps k) (fun _ _ hstep hk => hk.trans hstep.keeps) (.refl j)

theorem Job.keeps_wakeDecoder (j : Job) : j.Keeps j.wakeDecoder := j.wakeDecoder_decodes.jobKeeps

theorem Job.keeps_window (j : Job) (window : Window) : j.Keeps { j with window := window } := .own rfl rfl rfl rfl rfl rfl rfl Iff.rfl

theorem Job.keeps_takeByte {j : Job} (h : j.canTakeByte = true) : j.Keeps j.takeByte := by
  obtain ⟨window, hrun⟩ := Job.takeByte_decodes h
  exact (j.keeps_window window).trans hrun.jobKeeps

theorem Job.keeps_suspendDecoder (j : Job) : j.Keeps j.suspendDecoder := by
  have hsignal : j.Keeps { j with signals := { j.signals with suspend := false } } := .own rfl rfl rfl rfl rfl rfl rfl Iff.rfl
  unfold Job.suspendDecoder
  dsimp only
  split
  · exact hsignal.trans ((Job.keeps_stopDecoder _).trans (Job.keeps_reportStop _ _))
  · exact hsignal

theorem Job.keeps_haltDecoder (j : Job) : j.Keeps j.haltDecoder := .stream rfl rfl rfl rfl rfl Iff.rfl fun _ h => h

theorem Job.keeps_abortDecoder (j : Job) : j.Keeps j.abortDecoder :=
  .stream rfl rfl rfl rfl rfl Iff.rfl fun _ ⟨⟨hctx, _, _⟩, hq⟩ => ⟨⟨hctx, trivial, fun i hi => by cases hi⟩, hq⟩

theorem Job.keeps_count (c : JobCounter) (k : Nat) (j : Job) : j.Keeps (j.count c k) := by
  obtain ⟨counters, he⟩ := Job.count_eq c k j
  rw [he]
  exact .own rfl rfl rfl rfl rfl rfl rfl Iff.rfl

/-- Items that name target blocks join the output. -/
theorem Job.keeps_produce {items : List Item} (h : ∀ n, ∀ i ∈ items, i.inTarget n) (j : Job) : j.Keeps (j.produce items) := by
  have hout : j.Keeps (j.mapDecoder (fun d => { d with waitingOutput := d.waitingOutput ++ items })) :=
    .stream rfl rfl rfl rfl rfl Iff.rfl fun _ ⟨⟨hctx, hrec, hout⟩, hq⟩ => ⟨⟨hctx, hrec, fun i hi => by
      rcases List.mem_append.mp hi with hi | hi
      · exact hout i hi
      · exact h _ i hi⟩, hq⟩
  exact hout.trans Decodes.flushed.keeps

theorem Job.keeps_discontinuity (j : Job) : j.Keeps j.discontinuity := by
  have hdropped : j.Keeps (j.dropRecord.mapDecoder (fun d =>
      { d with escape := .clear, waitingBytes := [], context := none, position := .seeking })) :=
    .stream rfl rfl rfl rfl rfl Iff.rfl fun _ ⟨⟨_, _, hout⟩, hq⟩ => ⟨⟨fun c hc => (by cases hc), trivial, hout⟩, hq⟩
  unfold Job.discontinuity
  split
  · exact .refl j
  · dsimp only
    split
    · exact hdropped.trans ((Job.keeps_count _ _ _).trans (Job.keeps_produce (by simp [Item.inTarget]) _))
    · exact hdropped

theorem Job.keeps_expireGap (j : Job) : j.Keeps j.expireGap.job := by
  unfold Job.expireGap
  split
  · exact (j.keeps_window _).trans ((Job.keeps_count _ _ _).trans (Job.keeps_discontinuity _))
  · exact .refl j

/-! ### CT -/

/-- The map's length is kept, and F stays in the target. -/
def Tracker.Spans (n : Nat) (t t' : Tracker) : Prop := t.InTarget n → t'.InTarget n

theorem Account.ListOnly.inTarget {n : Nat} {t : Tracker} {a : Account} (h : a.ListOnly t) (ht : t.InTarget n) :
    a.tracker.InTarget n := by
  obtain ⟨rs, o, he⟩ := h
  rw [he]
  exact ht

theorem Tracker.InTarget.setState {n : Nat} {t : Tracker} (h : t.InTarget n) (b : Nat) (c : Coverage) : (t.setState b c).InTarget n :=
  ⟨by simpa [Tracker.setState] using h.1, h.2⟩

theorem Tracker.InTarget.mapRange {n : Nat} {t : Tracker} (h : t.InTarget n) (r : BlockRange) (f : Coverage → Coverage) :
    (t.mapRange r f).InTarget n :=
  ⟨by simpa [Tracker.mapRange] using h.1, h.2⟩

theorem Tracker.InTarget.writeReport {n b : Nat} {t : Tracker} (h : t.InTarget n) (hb : b < n) (tainted : Bool) :
    (t.writeReport b tainted).tracker.InTarget n := by
  have hw (c : Coverage) : (t.written b c).InTarget n :=
    ⟨by simpa [Tracker.written] using h.1, Nat.max_le.mpr ⟨h.2, hb⟩⟩
  rw [Tracker.writeReport_eq]
  split
  · split
    · exact hw _
    · exact (Tracker.addRange_listOnly _ _).inTarget (hw _)
  · exact (Tracker.removeBlock_listOnly _ _).inTarget (hw _)

theorem Tracker.InTarget.fillReport {n : Nat} {t : Tracker} (h : t.InTarget n) (b : Nat) (final : Bool) :
    (t.fillReport b final).tracker.InTarget n := by
  unfold Tracker.fillReport
  dsimp only
  split
  · exact (Tracker.removeBlock_listOnly _ _).inTarget (h.setState _ _)
  · split
    · exact h.setState _ _
    · exact (Tracker.addRange_listOnly _ _).inTarget (h.setState _ _)

theorem Tracker.InTarget.holeRequest {n start : Nat} {t : Tracker} (h : t.InTarget n) (hs : start ≤ n) :
    (t.holeRequest start).1.tracker.InTarget n := by
  unfold Tracker.holeRequest
  split
  · have ha := (Tracker.addRange_listOnly ⟨t.frontier, start - t.frontier⟩ t).inTarget h
    exact ⟨ha.1, hs⟩
  · exact h

theorem Tracker.InTarget.restartScan {n : Nat} {t : Tracker} (h : t.InTarget n) (before : List Coverage) :
    (t.restartScan before).InTarget n := by
  rcases t.restartScan_spec before with he | ⟨sc, _, he⟩ <;> rw [he] <;> exact h

theorem Tracker.InTarget.sectionResult {n : Nat} {t : Tracker} (h : t.InTarget n) (start count : Nat) (outcome : TaskOutcome) :
    (t.sectionResult start count outcome).tracker.InTarget n := by
  unfold Tracker.sectionResult
  cases outcome with
  | isMatch => exact ((Tracker.removeBlocks_listOnly _ _).inTarget (h.mapRange _ _)).restartScan _
  | mismatch | check b => exact ((Tracker.addRange_listOnly _ _).inTarget (h.mapRange _ _)).restartScan _

theorem Tracker.InTarget.closeMatch {n : Nat} {t : Tracker} (h : t.InTarget n) : t.closeMatch.tracker.InTarget n :=
  (Tracker.removeBlocks_listOnly _ _).inTarget ⟨by simpa using h.1, h.2⟩

theorem Tracker.InTarget.closeCheck {n : Nat} {t : Tracker} (h : t.InTarget n) (b : Nat) : (t.closeCheck b).tracker.InTarget n :=
  (Tracker.addRange_listOnly _ _).inTarget (h.setState _ _)

theorem Tracker.InTarget.waive {n : Nat} {t : Tracker} (h : t.InTarget n) (r : BlockRange) : (t.waive r).tracker.InTarget n :=
  (Tracker.removeBlocks_listOnly _ _).inTarget (h.mapRange _ _)

theorem Tracker.InTarget.completeScan {n : Nat} {t : Tracker} (h : t.InTarget n) (sc : Scan) : (t.completeScan sc).tracker.InTarget n := by
  unfold Tracker.completeScan
  dsimp only
  split
  · exact (Tracker.setOverflow_listOnly _ _).inTarget h
  · exact h

theorem Tracker.InTarget.scanStep {n : Nat} {t : Tracker} (h : t.InTarget n) (sc : Scan) : (t.scanStep sc).tracker.InTarget n := by
  unfold Tracker.scanStep
  dsimp only
  generalize (if sc.position < t.frontier then sc.visit (t.state sc.position) else sc) = sc'
  split
  · exact h.completeScan _
  · exact h

/-- CT takes a report that keeps its block numbers in the target. -/
theorem Work.keeps_account {a : Account} {w : Work} (h : w.job.InTarget → a.tracker.InTarget w.job.descriptor.targetLength) :
    w.job.Keeps (w.account a).job := by
  obtain ⟨ns, he, _⟩ := w.account_spec a
  rw [he]
  refine ⟨⟨fun hj => ?_, rfl, rfl, rfl, Iff.rfl, id⟩, rfl⟩
  have ha := h hj
  rw [Job.inTarget_iff] at hj ⊢
  obtain ⟨hfit, _, hst, hun⟩ := hj
  exact ⟨hfit, ha, hst, hun⟩

theorem Job.InTarget.tracker {j : Job} (h : j.InTarget) : j.tracker.InTarget j.descriptor.targetLength := ((Job.inTarget_iff j).mp h).2.1

theorem Job.InTarget.fits {j : Job} (h : j.InTarget) : j.descriptor.Fits := ((Job.inTarget_iff j).mp h).1

theorem Job.InTarget.stream {j : Job} (h : j.InTarget) : j.StreamInTarget j.descriptor.targetLength := ((Job.inTarget_iff j).mp h).2.2.1

/-! ### VE -/

theorem Job.keeps_mapVerifier (f : Verifier → Verifier) (j : Job) : j.Keeps (j.mapVerifier f) := .own rfl rfl rfl rfl rfl rfl rfl Iff.rfl

theorem Work.keeps_map {f : Job → Job} (h : ∀ j : Job, j.Keeps (f j)) (w : Work) : w.job.Keeps (w.map f).job := h w.job

theorem Job.keeps_handOff (j : Job) : j.Keeps j.handOff := by
  unfold Job.handOff
  split
  · split
    · next t _ _ _ =>
      have hjoin : j.Keeps { j with verifier := j.verifier.join t } := Job.keeps_mapVerifier (Verifier.join t) j
      exact hjoin.trans (Job.keeps_unit rfl (Or.inr rfl) (Or.inl rfl) (Or.inl rfl) rfl)
    · exact .refl j
  · exact .refl j

theorem Job.keeps_beginTask (o : Bool) (j : Job) : j.Keeps (j.beginTask o) := Job.keeps_mapVerifier _ j

theorem Job.keeps_cancelTasks (b : Nat) (o : Bool) (j : Job) : j.Keeps (j.cancelTasks b o) :=
  ((Job.keeps_mapVerifier _ j).trans (Job.keeps_handOff _)).trans (Job.keeps_beginTask _ _)

theorem Job.keeps_endTask (j : Job) : j.Keeps j.endTask :=
  ((Job.keeps_mapVerifier _ j).trans (Job.keeps_handOff _)).trans (Job.keeps_beginTask _ _)

theorem Work.keeps_taskEnds (t : DigestTask) (outcome : TaskOutcome) (w : Work) : w.job.Keeps (w.taskEnds t outcome).job := by
  have haccount : w.job.Keeps (w.account (w.job.tracker.sectionResult t.start t.count outcome)).job :=
    Work.keeps_account fun h => h.tracker.sectionResult _ _ _
  unfold Work.taskEnds
  cases outcome with
  | isMatch => exact haccount.trans (Job.keeps_endTask _)
  | mismatch =>
    refine haccount.trans (Job.Keeps.trans ?_ (Job.keeps_endTask _))
    dsimp only
    rw [Work.report_job]
    exact Job.keeps_count _ _ _
  | check b =>
    refine haccount.trans (Job.Keeps.trans ?_ (Job.keeps_endTask _))
    dsimp only
    rw [Work.report_job]
    exact .refl _

/-- A change of the job state between states other than ABORTING. -/
theorem Job.keeps_phase {j : Job} {phase : JobPhase} (h : j.phase ≠ .aborting) (h' : phase ≠ .aborting) :
    j.Keeps { j with phase := phase } :=
  .own rfl rfl rfl rfl rfl rfl rfl (by simp [h, h'])

theorem Work.keeps_closeEnds {phase : JobPhase} (h : phase ≠ .aborting) (n : Notice) (w : Work) :
    w.job.Keeps (w.closeEnds phase n).job := by
  have hended : w.job.Keeps (w.map (fun j => j.mapVerifier (fun v => { v with close := none }))).job :=
    Work.keeps_map (Job.keeps_mapVerifier _) w
  unfold Work.closeEnds
  dsimp only
  split
  · next hp => exact hended.trans (Job.keeps_phase (by rw [hp]; decide) h)
  · exact hended

theorem Work.keeps_closeRead (c : CloseOperation) (data : Option Bytes) (w : Work) : w.job.Keeps (w.closeRead c data).job := by
  unfold Work.closeRead
  cases data with
  | none => exact (Work.keeps_account fun h => h.tracker.closeCheck _).trans (Work.keeps_closeEnds (by decide) _ _)
  | some bytes =>
    dsimp only
    split
    · split
      · exact (Work.keeps_account fun h => h.tracker.closeMatch).trans (Work.keeps_closeEnds (by decide) _ _)
      · exact Work.keeps_closeEnds (by decide) _ _
    · exact Work.keeps_map (fun j => Job.keeps_mapVerifier _ j) w

theorem Work.keeps_taskRead (t : DigestTask) (p : TaskProgress) (data : Option Bytes) (w : Work) :
    w.job.Keeps (w.taskRead t p data).job := by
  unfold Work.taskRead
  cases data with
  | none => exact Work.keeps_taskEnds _ _ _
  | some bytes =>
    dsimp only
    split
    · exact Work.keeps_taskEnds _ _ _
    · exact Work.keeps_map (fun j => Job.keeps_mapVerifier _ j) w

theorem Job.keeps_discardedRead (j : Job) : j.Keeps j.discardedRead := by
  have hbegun : j.Keeps ((j.mapVerifier (fun v => { v with discarded := false })).beginTask false) :=
    (Job.keeps_mapVerifier _ j).trans (Job.keeps_beginTask _ _)
  unfold Job.discardedRead
  dsimp only
  split
  · exact hbegun.trans (.own rfl rfl rfl rfl rfl rfl rfl Iff.rfl)
  · exact hbegun

theorem Work.keeps_verifierRead (data : Option Bytes) (w : Work) : w.job.Keeps (w.verifierRead data).job := by
  unfold Work.verifierRead
  dsimp only
  split
  · exact Job.keeps_discardedRead _
  · split
    · exact Work.keeps_closeRead _ _ _
    · exact Work.keeps_taskRead _ _ _ _
    · exact .refl _

theorem Job.keeps_stopVerifier (o : Bool) (j : Job) : j.Keeps (j.stopVerifier o) := .own rfl rfl rfl rfl rfl rfl rfl Iff.rfl

theorem Job.keeps_scanVisit {j : Job} (h : j.canScan = true) : j.Keeps j.scanVisit.job := by
  have hp : j.phase = .servicing := by
    simp only [Job.canScan, Bool.and_eq_true, beq_iff_eq] at h
    exact h.1
  unfold Job.scanVisit
  split
  · exact .refl j
  · next sc hsc =>
    have hstep (n : Nat) (ht : j.tracker.InTarget n) := ht.scanStep sc
    split
    · next t ht =>
      rw [ht] at hstep
      exact Work.keeps_account (a := ⟨t, none⟩) (w := ⟨j, []⟩) fun h => hstep _ h.tracker
    · next a ha =>
      rw [ha] at hstep
      have haccount : j.Keeps ((Work.mk j []).account a).job :=
        Work.keeps_account (w := ⟨j, []⟩) fun h => hstep _ h.tracker
      refine haccount.trans (Job.keeps_phase ?_ (by decide))
      obtain ⟨ns, he, _⟩ := (Work.mk j []).account_spec a
      rw [he]
      simp [hp]

theorem Job.keeps_stopScan (j : Job) : j.Keeps j.stopScan := by
  refine ⟨⟨fun h => ?_, rfl, rfl, rfl, Iff.rfl, id⟩, rfl⟩
  rw [Job.inTarget_iff] at h ⊢
  exact h

end Sys2Proof.Machine
end

section
/-! RU's operations and the target region: what starting a block comes to, and O57. -/

namespace Sys2Proof.Machine

/-! ### The first transaction of a block -/

/-- A transaction of RU's for a target block: a read, or a write of that block. -/
def StoreOp.IsFor (d : Descriptor) (b : Nat) (op : StoreOp) : Prop := (∃ i, op = .read i) ∨ ∃ content, op = .write (d.targetIndex b) content

/-- The index of a target block lies in the target region. -/
theorem Descriptor.targetIndex_val {d : Descriptor} (hd : d.Fits) {b : Nat} (hb : b < d.targetLength) :
    (d.targetIndex b).val = d.targetFirst + b := by
  unfold Descriptor.Fits at hd
  exact Nat.mod_eq_of_lt (by omega)

theorem StoreOp.IsFor.inTarget {d : Descriptor} (hd : d.Fits) {b : Nat} (hb : b < d.targetLength) {op : StoreOp} (h : op.IsFor d b) :
    op.inTarget d := by
  rcases h with ⟨i, rfl⟩ | ⟨content, rfl⟩
  · trivial
  · show d.targetFirst ≤ (d.targetIndex b).val ∧ (d.targetIndex b).val < d.targetFirst + d.targetLength
    rw [Descriptor.targetIndex_val hd hb]
    omega

/-- The work of a BLOCK item's block. -/
def BlockWork.isItemWork : BlockWork → Prop
  | .skipped _ => True
  | .ownCopy _ => True
  | .ownSelf _ => True
  | .ownData => True
  | .holeFill => False
  | .hostFill _ => False

theorem Descriptor.planCopy_ok {d : Descriptor} {b : Nat} {mk : Int → BlockWork} {displacement : Option Int} {work : BlockWork}
    {op : StoreOp} (h : d.planCopy b mk displacement = .ok (work, op)) : (∃ e, work = mk e) ∧ op.IsFor d b := by
  unfold Descriptor.planCopy at h
  split at h
  · cases h
  · split at h
    · cases h
      exact ⟨⟨_, rfl⟩, Or.inl ⟨_, rfl⟩⟩
    · cases h

theorem Job.planSelf_ok {j : Job} {b distance : Nat} {work : BlockWork} {op : StoreOp} (h : j.planSelf b distance = .ok (work, op)) :
    (∃ tainted, work = .ownSelf tainted) ∧ op.IsFor j.descriptor b := by
  unfold Job.planSelf at h
  split at h
  · cases h
  · dsimp only at h
    split at h <;> cases h
    all_goals exact ⟨⟨_, rfl⟩, Or.inl ⟨_, rfl⟩⟩

/-- A plan's work is a BLOCK item's, and its transaction is for the block. -/
theorem Job.planBlock_ok {j : Job} {i : BlockItem} {b : Nat} {work : BlockWork} {op : StoreOp}
    (h : j.planBlock i b = .ok (work, op)) : work.isItemWork ∧ op.IsFor j.descriptor b := by
  unfold Job.planBlock at h
  dsimp only at h
  split at h
  · obtain ⟨⟨e, rfl⟩, hop⟩ := Descriptor.planCopy_ok h
    exact ⟨trivial, hop⟩
  · split at h
    · obtain ⟨⟨e, rfl⟩, hop⟩ := Descriptor.planCopy_ok h
      exact ⟨trivial, hop⟩
    · obtain ⟨⟨e, rfl⟩, hop⟩ := Descriptor.planCopy_ok h
      exact ⟨trivial, hop⟩
    · obtain ⟨⟨e, rfl⟩, hop⟩ := Job.planSelf_ok h
      exact ⟨trivial, hop⟩
    · cases h
      exact ⟨trivial, Or.inr ⟨_, rfl⟩⟩
    · cases h
      exact ⟨trivial, Or.inr ⟨_, rfl⟩⟩

theorem Job.carryGuess_isFor (b : Nat) (fallback : Byte) (j : Job) : (j.carryGuess b fallback).IsFor j.descriptor b := by
  unfold Job.carryGuess
  dsimp only
  split
  · exact Or.inl ⟨_, rfl⟩
  · exact Or.inr ⟨_, rfl⟩

theorem Job.holeRequest_isFor (b : Nat) (j : Job) : (j.holeRequest b).IsFor j.descriptor b := by
  unfold Job.holeRequest
  split
  · exact j.carryGuess_isFor b _
  · exact Or.inr ⟨_, rfl⟩
  · exact Or.inr ⟨_, rfl⟩

theorem Job.fillRequest_isFor (f : FillOperation) (b : Nat) (j : Job) : (j.fillRequest f b).IsFor j.descriptor b := by
  unfold Job.fillRequest
  split
  · exact j.carryGuess_isFor b _
  · exact Or.inr ⟨_, rfl⟩

/-- What RU's start of its item's next block comes to: the block in hand with its transaction, a hole block, the fault of the block's
test, or nothing, for an item without blocks. -/
inductive BlockStarted (c : CurrentItem) (j : Job) : Job → Prop
  | block (i : BlockItem) (work : BlockWork) (op : StoreOp) (hi : c.item = .block i) (hw : work.isItemWork)
      (hop : op.IsFor j.descriptor c.next) : BlockStarted c j { j with unit := j.unit.startBlock c.next work op }
  | hole (op : StoreOp) (hi : (∃ start, c.item = .sectionBegin start) ∨ ∃ digest, c.item = .imageEnd digest)
      (hop : op.IsFor j.descriptor c.next) : BlockStarted c j { j with unit := j.unit.startBlock c.next .holeFill op }
  | fault (i : BlockItem) (code : FaultCode) (hi : c.item = .block i) : BlockStarted c j (j.unitFault code i.sectionNumber c.next)
  | none (hi : (∃ number start count digest, c.item = .sectionEnd number start count digest) ∨ c.item = .abandon) : BlockStarted c j j

theorem Job.startItemBlock_started (c : CurrentItem) (j : Job) : BlockStarted c j (j.startItemBlock c) := by
  unfold Job.startItemBlock
  split
  · next i hi =>
    split
    · next work op hp =>
      obtain ⟨hw, hop⟩ := Job.planBlock_ok hp
      exact .block i work op hi hw hop
    · exact .fault i _ hi
  · next hi => exact .hole _ (Or.inl ⟨_, hi⟩) (j.holeRequest_isFor _)
  · next hi => exact .hole _ (Or.inr ⟨_, hi⟩) (j.holeRequest_isFor _)
  · next hi => exact .none (Or.inl ⟨_, _, _, _, hi⟩)
  · next hi => exact .none (Or.inr hi)

/-! ### RU's operations -/

/-- A block of the target started with a transaction for it. -/
theorem ReconUnit.InTarget.startBlock {d : Descriptor} {u : ReconUnit} (h : u.InTarget d) (hd : d.Fits) {b : Nat}
    (hb : b < d.targetLength) (work : BlockWork) {op : StoreOp} (hop : op.IsFor d b) : (u.startBlock b work op).InTarget d := by
  obtain ⟨h1, _, h3, _⟩ := h
  refine ⟨h1, fun k hk => ?_, h3, fun op' ho => ?_⟩
  · cases hk
    exact hb
  · cases ho
    exact hop.inTarget hd hb

theorem Job.starts_startBlock {j : Job} {b : Nat} {work : BlockWork} {op : StoreOp} (hop : op.IsFor j.descriptor b)
    (hb : b < j.descriptor.targetLength) : j.Starts { j with unit := j.unit.startBlock b work op } :=
  Job.starts_unit rfl id fun h => h.unit.startBlock h.fits hb work hop

/-- RU at a fault of its own: nothing new is named. -/
theorem Job.starts_unitFault (code : FaultCode) (n : Option Word16) (b : Nat) (j : Job) : j.Starts (j.unitFault code n b) :=
  (Job.starts_unit (j := j) (u := { j.unit with activity := .halted, block := none, waiting := none }) rfl id
    fun h => h.unit.mono (Or.inl rfl) (Or.inr rfl) (Or.inl rfl) (Or.inr rfl)).trans (Job.keeps_reportFault _ _).starts

theorem Job.starts_startItemBlock {c : CurrentItem} {j : Job} (hc : c.next < j.descriptor.targetLength) :
    j.Starts (j.startItemBlock c) := by
  have h := j.startItemBlock_started c
  generalize j.startItemBlock c = j' at h ⊢
  cases h with
  | block i work op hi hw hop => exact Job.starts_startBlock hop hc
  | hole op hi hop => exact Job.starts_startBlock hop hc
  | fault i code hi => exact Job.starts_unitFault _ _ _ _
  | none hi => exact .refl j

/-- RU takes an item that names target blocks. -/
theorem ReconUnit.InTarget.hold {d : Descriptor} {u u' : ReconUnit} {c : CurrentItem} (h : u.InTarget d) (hc : c.inTarget d.targetLength)
    (hi : u'.item = some c) (hb : u'.block = u.block ∨ u'.block = none) (hf : u'.fill = u.fill) (hw : u'.waiting = u.waiting) :
    u'.InTarget d := by
  obtain ⟨_, h2, h3, h4⟩ := h
  refine ⟨fun c' hc' => ?_, ?_, by rw [hf]; exact h3, by rw [hw]; exact h4⟩
  · rw [hi] at hc'
    cases hc'
    exact hc
  · rcases hb with hb | hb <;> rw [hb]
    · exact h2
    · simp

theorem Job.starts_holdItem {a : Activity} {c : CurrentItem} {j : Job} (hc : c.inTarget j.descriptor.targetLength)
    (hnext : c.next < j.descriptor.targetLength) : j.Starts (j.holdItem a c) := by
  have hhold : j.Starts (j.mapUnit (fun u => { u with activity := a, item := some c })) :=
    Job.starts_unit rfl id fun h => h.unit.hold hc rfl (Or.inl rfl) rfl rfl
  exact hhold.trans (Job.starts_startItemBlock hnext)

theorem Job.keeps_mapUnit {f : ReconUnit → ReconUnit} {j : Job} (ho : (f j.unit).order = j.unit.order)
    (hi : (f j.unit).item = j.unit.item ∨ (f j.unit).item = none) (hb : (f j.unit).block = j.unit.block ∨ (f j.unit).block = none)
    (hf : (f j.unit).fill = j.unit.fill ∨ (f j.unit).fill = none) (hw : (f j.unit).waiting = j.unit.waiting) : j.Keeps (j.mapUnit f) :=
  Job.keeps_unit ho hi hb hf hw

theorem Job.starts_nextBlock {c : CurrentItem} {j : Job} (hc : c.inTarget j.descriptor.targetLength)
    (hnext : c.next + 1 < c.stop) : j.Starts (j.nextBlock c) := by
  have hon : j.Starts (j.mapUnit (fun u => { u with item := some { c with next := c.next + 1 }, block := none })) :=
    Job.starts_unit rfl id fun h => h.unit.hold (c := { c with next := c.next + 1 }) hc rfl (Or.inr rfl) rfl rfl
  unfold Job.nextBlock
  dsimp only
  split
  · exact hon.trans (Job.starts_startItemBlock (Nat.lt_of_lt_of_le hnext hc.2))
  all_goals exact hon.trans (Job.keeps_mapUnit rfl (Or.inl rfl) (Or.inl rfl) (Or.inl rfl) rfl).starts

theorem Job.keeps_restartMonitor (j : Job) : j.Keeps j.restartMonitor := by
  rw [Job.restartMonitor_eq]
  exact Job.keeps_unit rfl (Or.inl rfl) (Or.inl rfl) (Or.inl rfl) rfl

theorem Job.keeps_recordCarry (k : BlockInHand) (j : Job) : j.Keeps (j.recordCarry k) := by
  unfold Job.recordCarry
  split
  · exact Job.keeps_unit rfl (Or.inl rfl) (Or.inl rfl) (Or.inl rfl) rfl
  · exact Job.keeps_unit rfl (Or.inl rfl) (Or.inl rfl) (Or.inl rfl) rfl
  all_goals exact .refl j

/-- A finished item leaves RU and the ring. -/
theorem Job.keeps_finishItem (item : Item) (j : Job) : j.Keeps (j.finishItem item) := by
  have hring : j.Keeps { j with ring := j.ring.freeOldest item.ringHeld } := .own rfl rfl rfl rfl rfl rfl rfl Iff.rfl
  exact hring.trans (Job.keeps_unit rfl (Or.inr rfl) (Or.inr rfl) (Or.inl rfl) rfl)

theorem Job.keeps_recordEnd (digest : Word32) (j : Job) : j.Keeps (j.recordEnd digest) := by
  unfold Job.recordEnd
  split
  · exact .refl j
  · exact .own rfl rfl rfl rfl rfl rfl rfl Iff.rfl

theorem Job.keeps_finishHoleItem (item : Item) (j : Job) : j.Keeps (j.finishHoleItem item) := by
  unfold Job.finishHoleItem
  split
  · split
    · exact Job.keeps_finishItem _ _
    · exact (Job.keeps_recordEnd _ _).trans (Job.keeps_finishItem _ _)
  all_goals exact Job.keeps_finishItem _ _

theorem Job.keeps_finishBlockItem (i : BlockItem) (j : Job) : j.Keeps (j.finishBlockItem i) := by
  have hmoved : j.Keeps (j.mapUnit (fun u => { u with displacement := i.directive.displacementAfter u.displacement })) :=
    Job.keeps_unit rfl (Or.inl rfl) (Or.inl rfl) (Or.inl rfl) rfl
  exact hmoved.trans (Job.keeps_finishItem _ _)

theorem Job.starts_advanceItem {c : CurrentItem} {j : Job} (hc : c.inTarget j.descriptor.targetLength) : j.Starts (j.advanceItem c) := by
  unfold Job.advanceItem
  split
  · next h => exact Job.starts_nextBlock hc h
  · split
    · exact (Job.keeps_finishBlockItem _ _).starts
    all_goals exact (Job.keeps_finishHoleItem _ _).starts

/-! ### Items and fills -/

/-- The hole that a hole request finds: from F up to the start, or empty (R25). -/
theorem Tracker.holeRequest_hole (start : Nat) (t : Tracker) :
    (t.holeRequest start).2 = if t.frontier < start then ⟨t.frontier, start - t.frontier⟩ else ⟨start, 0⟩ := by
  unfold Tracker.holeRequest
  split <;> rfl

/-- A hole that is not empty ends at the start. -/
theorem Tracker.holeRequest_spec {start : Nat} {t : Tracker} (h : (t.holeRequest start).2.count ≠ 0) :
    (t.holeRequest start).2 = ⟨t.frontier, start - t.frontier⟩ ∧ t.frontier < start ∧ (t.holeRequest start).2.stop = start := by
  rw [Tracker.holeRequest_hole] at h ⊢
  split
  · next hlt => exact ⟨rfl, hlt, by simp only [BlockRange.stop]; omega⟩
  · next hlt => simp [hlt] at h

theorem Work.starts_takeHole {item : Item} {start : Nat} {whenNone : Work → Work} {w : Work}
    (hnone : ∀ w : Work, w.job.Starts (whenNone w).job) (hitem : item.inTarget w.job.descriptor.targetLength)
    (hstart : start ≤ w.job.descriptor.targetLength) : w.job.Starts (w.takeHole item start whenNone).job := by
  have haccount : w.job.Starts (w.account (w.job.tracker.holeRequest start).1).job :=
    (Work.keeps_account fun hj => hj.tracker.holeRequest hstart).starts
  unfold Work.takeHole
  dsimp only
  split
  · exact haccount.trans (hnone _)
  · next h =>
    obtain ⟨hhole, hlt, hstop⟩ := Tracker.holeRequest_spec (fun hz => h (Or.inl hz))
    have hd : (w.account (w.job.tracker.holeRequest start).1).job.descriptor = w.job.descriptor := by
      obtain ⟨ns, he, _⟩ := w.account_spec (w.job.tracker.holeRequest start).1
      rw [he]
    have hfirst : (w.job.tracker.holeRequest start).2.first < start := by
      rw [hhole]
      exact hlt
    refine haccount.trans (Job.starts_holdItem ?_ ?_) <;> rw [hd]
    · exact ⟨hitem, Nat.le_trans (Nat.le_of_eq hstop) hstart⟩
    · exact Nat.lt_of_lt_of_le hfirst hstart

/-- A SECTION_END taken: its task joins VE's queue, or RU waits with it. -/
theorem Job.starts_takeSectionEnd {item : Item} (o : Bool) {j : Job} (hitem : item.inTarget j.descriptor.targetLength) :
    j.Starts (j.takeSectionEnd item o) := by
  have hcount : j.Starts (j.count .sectionsCompleted 1) := (Job.keeps_count _ _ j).starts
  have hd : (j.count .sectionsCompleted 1).descriptor = j.descriptor := by
    obtain ⟨counters, he⟩ := Job.count_eq .sectionsCompleted 1 j
    rw [he]
  unfold Job.takeSectionEnd
  dsimp only
  split
  · exact hcount
  · split
    · exact hcount.trans ((Job.keeps_mapVerifier _ _).trans (Job.keeps_beginTask _ _)).starts
    · refine hcount.trans (Job.starts_unit rfl id fun h => h.unit.hold (c := ⟨item, 0, 0⟩) ?_ rfl (Or.inl rfl) rfl rfl)
      rw [hd]
      exact ⟨hitem, Nat.zero_le _⟩

/-- RU takes an item that names target blocks. -/
theorem Work.starts_beginItem {item : Item} (o : Bool) {w : Work} (hitem : item.inTarget w.job.descriptor.targetLength) :
    w.job.Starts (w.beginItem item o).job := by
  unfold Work.beginItem
  split
  · next start =>
    have hunit : w.job.Starts (w.map (fun j => j.mapUnit (fun u => { u with displacement := some 0 }))).job :=
      (Work.keeps_map (fun _ => Job.keeps_mapUnit rfl (Or.inl rfl) (Or.inl rfl) (Or.inl rfl) rfl) w).starts
    exact hunit.trans (Work.starts_takeHole (fun w => .refl w.job) hitem hitem)
  · next i =>
    obtain ⟨hblock, hinc⟩ := hitem
    have hnext : i.block + 1 - i.increment < w.job.descriptor.targetLength := by omega
    exact Job.starts_holdItem (a := .build) (c := ⟨.block i, i.block + 1 - i.increment, i.block + 1⟩) ⟨⟨hblock, hinc⟩, hblock⟩ hnext
  · exact Job.starts_takeSectionEnd o hitem
  · exact (Work.keeps_map (fun _ => Job.keeps_mapUnit rfl (Or.inl rfl) (Or.inl rfl) (Or.inl rfl) rfl) w).starts
  · exact Work.starts_takeHole (fun w => (Work.keeps_map (fun _ => Job.keeps_recordEnd _ _) w).starts) hitem (Nat.le_refl _)

/-- RU takes the head of the queue. -/
theorem Job.starts_takeItem (first o : Bool) {j : Job} (hj : j.InTarget) : j.Starts (j.takeItem first o).job := by
  unfold Job.takeItem
  split
  · exact .refl j
  · next item rest hq =>
    have hitem : item.inTarget j.descriptor.targetLength := hj.stream.2 item (by simp [hq])
    have hrest : j.Starts { j with queue := rest } :=
      (Job.Keeps.stream (j := j) (j' := { j with queue := rest }) rfl rfl rfl rfl rfl Iff.rfl
        fun _ ⟨hdec, hqueue⟩ => ⟨hdec, fun i hi => hqueue i (by rw [hq]; exact List.mem_cons_of_mem _ hi)⟩).starts
    dsimp only
    split
    · have hwake := (Job.keeps_wakeDecoder { j with queue := rest }).starts
      have hd := (Job.goes_wakeDecoder { j with queue := rest }).descriptor
      generalize Job.wakeDecoder { j with queue := rest } = woken at hwake hd ⊢
      exact hrest.trans (hwake.trans (Work.starts_beginItem (w := ⟨woken, []⟩) o (hd ▸ hitem)))
    · exact hrest.trans ((Work.starts_beginItem (w := ⟨{ j with queue := rest }, []⟩) o hitem).trans (Job.keeps_wakeDecoder _).starts)

/-- The next block of a FILL lies in its range, from its next on, and is EMPTY, CARRIED or SUSPECT. -/
theorem FillOperation.nextBlock_some {f : FillOperation} {t : Tracker} {b : Nat} (h : f.nextBlock t = some b) :
    f.next ≤ b ∧ b < f.first + f.count ∧ (t.state b).listable = true := by
  unfold FillOperation.nextBlock at h
  have hmem := List.mem_of_find?_eq_some h
  rw [List.mem_range'_1] at hmem
  exact ⟨hmem.1, by omega, by simpa using List.find?_some h⟩

theorem Work.keeps_endFill (filled : Nat) (w : Work) : w.job.Keeps (w.endFill filled).job := by
  have hended : w.job.Keeps (w.map (fun j => j.mapUnit (fun u => { u with activity := .idle, block := none, fill := none }))).job :=
    Work.keeps_map (fun _ => Job.keeps_mapUnit rfl (Or.inl rfl) (Or.inr rfl) (Or.inr rfl) rfl) w
  unfold Work.endFill
  dsimp only
  split
  · next hp => exact hended.trans (Job.keeps_phase (by rw [hp]; decide) (by decide))
  · exact hended

/-- A FILL inside the target that goes on names target blocks. -/
theorem Work.continueFill_target {f : FillOperation} {w : Work} (hj : w.job.InTarget)
    (hf : f.first + f.count ≤ w.job.descriptor.targetLength) : (w.continueFill f).job.InTarget := by
  unfold Work.continueFill
  split
  · exact (w.keeps_endFill _).starts.target hj
  · next b hb =>
    obtain ⟨_, hlt, _⟩ := FillOperation.nextBlock_some hb
    have hunit : ReconUnit.InTarget w.job.descriptor { w.job.unit with fill := some { f with next := b } } := by
      obtain ⟨h1, h2, _, h4⟩ := hj.unit
      refine ⟨h1, h2, fun f' hf' => ?_, h4⟩
      cases hf'
      exact hf
    have hstart := hunit.startBlock hj.fits (Nat.lt_of_lt_of_le hlt hf) (.hostFill f.final) (w.job.fillRequest_isFor f b)
    rw [Job.inTarget_iff] at hj ⊢
    obtain ⟨hfit, htr, hst, _⟩ := hj
    exact ⟨hfit, htr, hst, hstart⟩

/-- What a FILL that goes on leaves of a job: RU's order, and the rest of it but RU's state, and the end of SERVICING. -/
theorem Work.continueFill_frame (f : FillOperation) (w : Work) : ∃ unit phase,
    (w.continueFill f).job = { w.job with unit := unit, phase := phase } ∧ unit.order = w.job.unit.order ∧
      (phase = w.job.phase ∨ w.job.phase = .servicing ∧ phase = .ready) := by
  unfold Work.continueFill
  split
  · unfold Work.endFill
    dsimp only
    split
    · next h => exact ⟨_, _, rfl, rfl, Or.inr ⟨h, rfl⟩⟩
    · exact ⟨_, w.job.phase, rfl, rfl, Or.inl rfl⟩
  · exact ⟨_, w.job.phase, rfl, rfl, Or.inl rfl⟩

/-! ### RU's completions and orders -/

theorem Work.keeps_reportBlock {k : BlockInHand} {w : Work} (hk : k.target < w.job.descriptor.targetLength) :
    w.job.Keeps (w.reportBlock k).job := by
  unfold Work.reportBlock
  split
  all_goals first
    | exact Work.keeps_account fun h => h.tracker.writeReport hk _
    | exact Work.keeps_account fun h => h.tracker.fillReport _ _

theorem Work.starts_advance {k : BlockInHand} {w : Work} (hj : w.job.InTarget) : w.job.Starts (w.advance k).job := by
  unfold Work.advance
  split
  · next f _ hf =>
    have hbound : f.first + f.count ≤ w.job.descriptor.targetLength := hj.unit.2.2.1 f hf
    refine ⟨fun _ => Work.continueFill_target hj hbound, ?_, ?_, ?_, ?_, fun hnone => by rw [hf] at hnone; cases hnone⟩
    all_goals
      obtain ⟨unit, phase, he, ho, hp⟩ := Work.continueFill_frame { f with next := k.target + 1, filled := f.filled + 1 } w
      rw [he]
    · exact ho
    · rcases hp with rfl | ⟨hp, rfl⟩
      · exact Iff.rfl
      · simp [hp]
  · exact .refl _
  · next hc _ _ => exact Job.starts_advanceItem (hj.unit.1 _ hc)
  · exact .refl _

/-- The work of a write completion before RU's work in hand goes on: CT's report, VE, the monitor, the counter, the carry table (R109). -/
def Work.written (k : BlockInHand) (o : Bool) (w : Work) : Work :=
  (w.reportBlock k).map (fun j =>
    ((((j.cancelTasks k.target o).restartMonitor).count k.work.counter 1).recordCarry k).mapUnit (fun u => { u with block := none }))

/-- The end of a write completion: RU's report of its ABORT stop, and SD going on (R80, R118). -/
def Job.endWrite (j : Job) : Job := (if j.unit.order = .stop then j.unitStopped else j).wakeDecoder

/-- A write completion in its three parts. -/
theorem Work.unitWrite_eq {w : Work} {k : BlockInHand} (h : w.job.unit.block = some k) (o : Bool) :
    w.unitWrite o = ((w.written k o).advance k).map Job.endWrite := by
  unfold Work.unitWrite
  rw [h]
  rfl

theorem Work.keeps_written {k : BlockInHand} {w : Work} (hk : k.target < w.job.descriptor.targetLength) (o : Bool) :
    w.job.Keeps (w.written k o).job := by
  refine (Work.keeps_reportBlock hk).trans (Work.keeps_map (fun j => ?_) _)
  exact (((Job.keeps_cancelTasks _ _ _).trans (Job.keeps_restartMonitor _)).trans (Job.keeps_count _ _ _)).trans
    ((Job.keeps_recordCarry _ _).trans (Job.keeps_mapUnit rfl (Or.inl rfl) (Or.inr rfl) (Or.inl rfl) rfl))

/-- RU after its ABORT stop names nothing new. -/
theorem Job.InTarget.unitStopped {j : Job} (h : j.InTarget) : j.unitStopped.InTarget := by
  have hu := h.unit
  rw [Job.inTarget_iff] at h ⊢
  obtain ⟨hfit, htr, hst, _⟩ := h
  exact ⟨hfit, htr, hst, hu.mono (Or.inl rfl) (Or.inr rfl) (Or.inl rfl) (Or.inr rfl)⟩

/-- What RU's ABORT stop rests on, with the transaction in flight left out of it: where RU has not taken the stop, it has not reported. -/
theorem Job.unitStopFits_iff {o : Bool} {j : Job} : j.UnitStopFits o ↔
    (j.unitClear = true → j.phase = .aborting ∧ j.unit.waiting = none ∧ o = false) ∧ (j.signals.unitStop = true → j.phase = .aborting) ∧
      (j.unit.order = .stop → j.phase = .aborting ∧ j.unit.fill = none) := Iff.rfl

/-- An operation that starts no block of RU's keeps the fit of its ABORT stop. -/
theorem Job.Keeps.unitStopFits {o : Bool} {j j' : Job} (h : j.Keeps j') (hj : j.UnitStopFits o) : j'.UnitStopFits o := by
  obtain ⟨⟨_, hclear, hstop, horder, habort, hfill⟩, hwaiting⟩ := h
  rw [Job.unitStopFits_iff, hclear, hstop, horder, habort, hwaiting]
  obtain ⟨h1, h2, h3⟩ := hj
  exact ⟨h1, h2, fun hs => ⟨(h3 hs).1, hfill (h3 hs).2⟩⟩

/-- So does any operation outside ABORTING. -/
theorem Job.Starts.unitStopFits {o o' : Bool} {j j' : Job} (h : j.Starts j') (hp : j.phase ≠ .aborting) (hj : j.UnitStopFits o) :
    j'.UnitStopFits o' := by
  obtain ⟨_, hclear, hstop, horder, habort, _⟩ := h
  obtain ⟨h1, h2, h3⟩ := hj
  rw [Job.unitStopFits_iff, hclear, hstop, horder]
  exact ⟨fun h => absurd (h1 h).1 hp, fun h => absurd (h2 h) hp, fun h => absurd (h3 h).1 hp⟩

/-- In ABORTING an operation may start a block while RU has not reported, and keeps the fit. -/
theorem Job.Starts.unitStopFits_unreported {o o' : Bool} {j j' : Job} (h : j.Starts j') (hc : j.unitClear = false)
    (hj : j.UnitStopFits o) : j'.UnitStopFits o' := by
  obtain ⟨_, hclear, hstop, horder, habort, hfill⟩ := h
  obtain ⟨_, h2, h3⟩ := hj
  rw [Job.unitStopFits_iff, hclear, hstop, horder, hc, habort]
  exact ⟨fun h => (by cases h), h2, fun h => ⟨(h3 h).1, hfill (h3 h).2⟩⟩

/-- The fit after RU's report, when no transaction of it is outstanding. -/
theorem Job.UnitStopFits.unitStopped {o : Bool} {j : Job} (hj : j.UnitStopFits o) (hp : j.phase = .aborting) :
    j.unitStopped.UnitStopFits false := by
  obtain ⟨_, h2, h3⟩ := hj
  exact ⟨fun _ => ⟨hp, rfl, rfl⟩, h2, h3⟩

/-- RU's write completion keeps the block numbers in the target and the fit of RU's ABORT stop. -/
theorem Job.unitWrite_keeps {j : Job} (hj : j.InTarget) (hs : j.UnitStopFits true) :
    ((Work.mk j []).unitWrite false).job.InTarget ∧ ((Work.mk j []).unitWrite false).job.UnitStopFits false := by
  have hclear : j.unitClear = false := by
    cases hc : j.unitClear
    · rfl
    · cases (hs.1 hc).2.2
  cases hk : j.unit.block with
  | none =>
    have he : (Work.mk j []).unitWrite false = ⟨j, []⟩ := by
      unfold Work.unitWrite
      rw [hk]
    rw [he]
    exact ⟨hj, (Job.Starts.refl j).unitStopFits_unreported hclear hs⟩
  | some k =>
    rw [Work.unitWrite_eq (w := ⟨j, []⟩) hk]
    have hwritten := (Work.keeps_written (w := ⟨j, []⟩) (hj.unit.2.1 k hk) false).starts
    have hadvanced := hwritten.trans (Work.starts_advance (k := k) (hwritten.target hj))
    have htarget := hadvanced.target hj
    have hfits : (((Work.mk j []).written k false).advance k).job.UnitStopFits false := hadvanced.unitStopFits_unreported hclear hs
    show (Job.endWrite _).InTarget ∧ (Job.endWrite _).UnitStopFits false
    unfold Job.endWrite
    split
    · next hstop =>
      have hend := Job.keeps_wakeDecoder (((Work.mk j []).written k false).advance k).job.unitStopped
      exact ⟨hend.starts.target htarget.unitStopped, hend.unitStopFits (hfits.unitStopped (hfits.2.2 hstop).1)⟩
    · have hend := Job.keeps_wakeDecoder (((Work.mk j []).written k false).advance k).job
      exact ⟨hend.starts.target htarget, hend.unitStopFits hfits⟩

/-- So does the completion of its read. -/
theorem Job.unitRead_keeps (data : Option Bytes) {j : Job} (hj : j.InTarget) (hs : j.UnitStopFits true) :
    (j.unitRead data).InTarget ∧ (j.unitRead data).UnitStopFits false := by
  have hclear : j.unitClear = false := by
    cases hc : j.unitClear
    · rfl
    · cases (hs.1 hc).2.2
  unfold Job.unitRead
  split
  · next hp =>
    have hdropped : j.Keeps (j.mapUnit (fun u => { u with block := none })) :=
      Job.keeps_mapUnit rfl (Or.inl rfl) (Or.inr rfl) (Or.inl rfl) rfl
    have hfits := hdropped.starts.unitStopFits_unreported (o' := false) hclear hs
    dsimp only
    split
    · exact ⟨(hdropped.starts.target hj).unitStopped, hfits.unitStopped hp⟩
    · exact ⟨hdropped.starts.target hj, hfits⟩
  · next hp =>
    have hread : j.Starts (match j.unit.block with
      | some k => j.blockRead k data
      | none => j) := by
      split
      · next k hk =>
        unfold Job.blockRead
        split
        · exact Job.starts_unitFault _ _ _ _
        · exact Job.starts_startBlock (Or.inr ⟨_, rfl⟩) (hj.unit.2.1 k hk)
      · exact .refl j
    exact ⟨hread.target hj, hread.unitStopFits hp hs⟩

/-- RU's ABORT stop. -/
theorem Job.stopUnit_keeps {o : Bool} {j : Job} (hj : j.InTarget) (hs : j.UnitStopFits o) (hp : j.phase = .aborting) :
    (j.stopUnit o).InTarget ∧ (j.stopUnit o).UnitStopFits o := by
  have htarget : ({ j with
      signals := { j.signals with unitStop := false }
      unit := { j.unit with
        order := .stop, waiting := none, fill := none
        item := if j.unit.activity = .verifyWait then none else j.unit.item
        monitor := .stopped } } : Job).InTarget := by
    have hu := hj.unit
    rw [Job.inTarget_iff] at hj ⊢
    obtain ⟨hfit, htr, hst, _⟩ := hj
    refine ⟨hfit, htr, hst, hu.mono ?_ (Or.inl rfl) (Or.inr rfl) (Or.inr rfl)⟩
    split
    · exact Or.inr rfl
    · exact Or.inl rfl
  obtain ⟨h1, h2, h3⟩ := hs
  unfold Job.stopUnit
  dsimp only
  cases o with
  | true => exact ⟨htarget, fun hc => absurd (h1 hc).2.2 (by decide), fun h => (by cases h), fun _ => ⟨hp, rfl⟩⟩
  | false => exact ⟨htarget.unitStopped, fun _ => ⟨hp, rfl, rfl⟩, fun h => (by cases h), fun _ => ⟨hp, rfl⟩⟩

/-- RU's quiescing notice. -/
theorem Job.takeQuiescing_keeps {o : Bool} {j : Job} (hj : j.InTarget) (hs : j.UnitStopFits o) :
    j.takeQuiescing.InTarget ∧ j.takeQuiescing.UnitStopFits o := by
  obtain ⟨h1, h2, h3⟩ := hs
  have hsame : ({ j with signals := { j.signals with quiescing := false } } : Job).InTarget := by
    rw [Job.inTarget_iff] at hj ⊢
    exact hj
  unfold Job.takeQuiescing
  dsimp only
  split
  · refine ⟨?_, h1, h2, fun h => (by cases h)⟩
    have hu := hsame.unit
    rw [Job.inTarget_iff] at hsame ⊢
    obtain ⟨hfit, htr, hst, _⟩ := hsame
    exact ⟨hfit, htr, hst, hu.mono (Or.inl rfl) (Or.inl rfl) (Or.inl rfl) (Or.inl rfl)⟩
  · exact ⟨hsame, h1, h2, h3⟩

end Sys2Proof.Machine
end

section
/-! O57: the works at the job keep the block numbers in the target and the fit of RU's ABORT stop, and with the transaction in flight that is
a law of every step. -/

namespace Sys2Proof.Machine

/-! ### The end of an event -/

theorem Work.keeps_testDrain (w : Work) : w.job.Keeps w.testDrain.job := by
  unfold Work.testDrain
  split
  · next h =>
    have hready : w.job.Keeps { w.job with phase := .ready } := Job.keeps_phase (by simp [h.1]) (by decide)
    dsimp only
    split
    · exact hready
    · exact hready
  · exact .refl _

theorem Work.keeps_testQuiesce (o : Bool) (w : Work) : w.job.Keeps (w.testQuiesce o).job := by
  unfold Work.testQuiesce
  split
  · next h =>
    have hfaulted : w.job.Keeps { w.job with phase := .faulted } := Job.keeps_phase (by simp [h.1]) (by decide)
    dsimp only
    split
    · exact hfaulted
    · exact hfaulted
  · exact .refl _

theorem Job.keeps_settleTimers (j : Job) : j.Keeps j.settleTimers := by
  rw [Job.settleTimers_eq]
  exact (Job.keeps_unit (u := { j.unit with monitor := if j.phase.inRun = true then j.unit.monitor else .stopped }) rfl (Or.inl rfl)
    (Or.inl rfl) (Or.inl rfl) rfl).trans (Job.keeps_window _ _)

theorem Work.keeps_settle (o : Bool) (w : Work) : w.job.Keeps (w.settle o).job :=
  ((w.keeps_testDrain).trans (Work.keeps_testQuiesce o _)).trans (Job.keeps_settleTimers _)

/-! ### The requests -/

theorem Job.keeps_run (limit : Limit) {j : Job} (h : j.phase = .ready) : j.Keeps (j.run limit) := by
  have hrunning : j.Keeps { j with phase := .running } := Job.keeps_phase (by simp [h]) (by decide)
  have hbegun : Job.Keeps { j with phase := .running } ({ j with phase := .running }.mapDecoder (Decoder.begin limit)) :=
    .stream rfl rfl rfl rfl rfl Iff.rfl fun _ h => h
  have hmonitor (j : Job) : j.Keeps j.startMonitor := by
    unfold Job.startMonitor
    split
    · exact .refl j
    · exact Job.keeps_mapUnit rfl (Or.inl rfl) (Or.inl rfl) (Or.inl rfl) rfl
  exact (hrunning.trans hbegun).trans ((hmonitor _).trans (Job.keeps_wakeDecoder _))

theorem Job.keeps_pause {j : Job} (h : j.phase = .running) : j.Keeps j.pause :=
  .own rfl rfl rfl rfl rfl rfl rfl (by simp [Job.pause, h])

theorem Job.keeps_takeParcel (p : Parcel) (j : Job) : j.Keeps (j.takeParcel p).1 := by
  have hstored : j.Keeps (if j.window.verdict p.sequence = .taken then { j with window := j.window.store p } else j) := by
    split
    · exact j.keeps_window _
    · exact .refl j
  unfold Job.takeParcel
  dsimp only
  generalize (if j.window.verdict p.sequence = .taken then { j with window := j.window.store p } else j) = stored at hstored ⊢
  refine hstored.trans (Job.Keeps.trans ?_ (Job.keeps_window _ _))
  split
  · exact Job.keeps_count _ _ _
  · exact .refl _

/-- RECOVER: RU's item is gone, and no stop was given. -/
theorem Job.recover_keeps {o : Bool} {j : Job} (h : j.phase = .faulted) (hj : j.InTarget) (hs : j.UnitStopFits o) :
    j.recover.InTarget ∧ j.recover.UnitStopFits o := by
  obtain ⟨h1, h2, h3⟩ := hs
  have hp : j.phase ≠ .aborting := by simp [h]
  refine ⟨?_, fun hc => absurd (h1 hc).1 hp, fun hc => absurd (h2 hc) hp, fun hc => (by cases hc)⟩
  have hu := hj.unit
  rw [Job.inTarget_iff] at hj ⊢
  obtain ⟨hfit, htr, _, _⟩ := hj
  exact ⟨hfit, htr, ⟨⟨fun c hc => (by cases hc), trivial, fun i hi => (by cases hi)⟩, fun i hi => (by cases hi)⟩,
    hu.mono (Or.inr rfl) (Or.inl rfl) (Or.inl rfl) (Or.inl rfl)⟩

theorem Job.keeps_repairScan {j : Job} (h : j.phase = .ready) :
    j.Keeps { j with phase := .servicing, tracker := j.tracker.startScan } := by
  refine ⟨⟨fun hj => ?_, rfl, rfl, rfl, by simp [h], id⟩, rfl⟩
  rw [Job.inTarget_iff] at hj ⊢
  exact hj

theorem Job.keeps_waive (r : BlockRange) (j : Job) : j.Keeps { j with tracker := (j.tracker.waive r).tracker } := by
  refine ⟨⟨fun hj => ?_, rfl, rfl, rfl, Iff.rfl, id⟩, rfl⟩
  rw [Job.inTarget_iff] at hj ⊢
  obtain ⟨hfit, htr, hst, hun⟩ := hj
  exact ⟨hfit, htr.waive r, hst, hun⟩

theorem Job.keeps_beginClose (expected : Word32) {j : Job} (h : j.phase = .ready) : j.Keeps (j.beginClose expected) :=
  .own rfl rfl rfl rfl rfl rfl rfl (by simp [Job.beginClose, h])

/-- The fields of FILL lie below F (R114). -/
theorem readFill_bound {frontier : Nat} {body : Bytes} {f : FillOperation} (h : readFill frontier body = .ok f) :
    f.first + f.count ≤ frontier := by
  unfold readFill at h
  dsimp only at h
  split at h
  · cases h
  · next hb =>
    split at h
    · cases h
    · split at h
      · cases h
      · cases h
        show field body 0 2 + field body 2 2 ≤ frontier
        omega

/-- FILL: RU starts a block of a range below F. -/
theorem Job.beginFill_keeps {o : Bool} {j : Job} {body : Bytes} {f : FillOperation} (h : j.phase = .ready)
    (hf : readFill j.tracker.frontier body = .ok f) (hj : j.InTarget) (hs : j.UnitStopFits o) :
    (j.beginFill f).job.InTarget ∧ (j.beginFill f).job.UnitStopFits o := by
  obtain ⟨h1, h2, h3⟩ := hs
  have hserve : j.Keeps ({ j with phase := .servicing }.mapUnit (fun u => { u with activity := .fill })) :=
    (Job.keeps_phase (by simp [h]) (by decide)).trans (Job.keeps_mapUnit rfl (Or.inl rfl) (Or.inl rfl) (Or.inl rfl) rfl)
  have hbound : f.first + f.count ≤ j.descriptor.targetLength := Nat.le_trans (readFill_bound hf) hj.tracker.2
  have hp : j.phase ≠ .aborting := by simp [h]
  refine ⟨Work.continueFill_target (hserve.starts.target hj) hbound, ?_⟩
  obtain ⟨unit, phase, he, ho, _⟩ := Work.continueFill_frame f
    (quietly (fun j => { j with phase := .servicing }.mapUnit (fun u => { u with activity := .fill })) j)
  show (Work.continueFill f _).job.UnitStopFits o
  rw [he]
  refine ⟨fun hc => absurd (h1 hc).1 hp, fun hc => absurd (h2 hc) hp, fun hc => absurd (h3 (ho ▸ hc)).1 hp⟩

/-! ### ABORT -/

/-- ABORT begins: RU is told to stop. -/
theorem Job.beginAbort_keeps {o : Bool} {j : Job} (h : j.phase ≠ .aborting) (hj : j.InTarget) (hs : j.UnitStopFits o) :
    j.beginAbort.InTarget ∧ j.beginAbort.UnitStopFits o := by
  obtain ⟨h1, h2, h3⟩ := hs
  rw [Job.beginAbort_eq]
  refine ⟨?_, fun hc => absurd (h1 hc).1 h, fun _ => rfl, fun hc => absurd (h3 hc).1 h⟩
  rw [Job.inTarget_iff] at hj ⊢
  exact hj

theorem Job.stopAtOnce_keeps {n : Nat} {ru ve : Bool} {j : Job} (h : j.phase = .aborting) (hj : j.InTarget) (hs : j.UnitStopFits ru) :
    (j.stopAtOnce n ru ve).InTarget ∧ (j.stopAtOnce n ru ve).UnitStopFits ru := by
  unfold Job.stopAtOnce
  dsimp only
  have h1 : j.Keeps (if Config.decoderStopsAtOnce n then j.abortDecoder else j) := by
    split
    · exact j.keeps_abortDecoder
    · exact .refl j
  generalize (if Config.decoderStopsAtOnce n then j.abortDecoder else j) = j1 at h1 ⊢
  have hj1 := h1.starts.target hj
  have hs1 := h1.unitStopFits hs
  have hp1 : j1.phase = .aborting := h1.starts.aborting.mpr h
  have h2 : (if Config.unitStopsAtOnce n then j1.stopUnit ru else j1).InTarget ∧
      (if Config.unitStopsAtOnce n then j1.stopUnit ru else j1).UnitStopFits ru := by
    split
    · exact Job.stopUnit_keeps hj1 hs1 hp1
    · exact ⟨hj1, hs1⟩
  generalize (if Config.unitStopsAtOnce n then j1.stopUnit ru else j1) = j2 at h2 ⊢
  obtain ⟨hj2, hs2⟩ := h2
  have h3 : j2.Keeps (if Config.verifierStopsAtOnce n then j2.stopVerifier ve else j2) := by
    split
    · exact j2.keeps_stopVerifier ve
    · exact .refl j2
  generalize (if Config.verifierStopsAtOnce n then j2.stopVerifier ve else j2) = j3 at h3 ⊢
  have h4 : j3.Keeps (if Config.scanStopsAtOnce n then j3.stopScan else j3) := by
    split
    · exact j3.keeps_stopScan
    · exact .refl j3
  exact ⟨(h3.trans h4).starts.target hj2, (h3.trans h4).unitStopFits hs2⟩

/-! ### Every work at the job -/

/-- The law of a job with the transaction in flight. -/
def Job.UnitLaw (flight : Option Transaction) (j : Job) : Prop :=
  j.InTarget ∧ j.UnitStopFits (holdsFlight flight .ru) ∧ ∀ op, flight = some ⟨.ru, op⟩ → op.inTarget j.descriptor

theorem Job.Keeps.unitLaw {flight : Option Transaction} {j j' : Job} (h : j.Keeps j') (hd : j'.descriptor = j.descriptor)
    (hj : j.UnitLaw flight) : j'.UnitLaw flight :=
  ⟨h.starts.target hj.1, h.unitStopFits hj.2.1, hd ▸ hj.2.2⟩

/-- The law where no transaction of RU is in flight. -/
theorem Job.UnitLaw.of_free {flight : Option Transaction} {j : Job} (hf : holdsFlight flight .ru = false)
    (h : j.InTarget ∧ j.UnitStopFits false) : j.UnitLaw flight := by
  refine ⟨h.1, hf ▸ h.2, fun op ho => ?_⟩
  rw [ho] at hf
  cases hf

theorem JobEvent.unitLaw {s : State} {j : Job} {w : Work} (h : JobEvent s j w) (hj : j.UnitLaw s.store.inFlight) :
    w.job.UnitLaw s.store.inFlight := by
  have hd := h.goes.descriptor
  have ⟨htarget, hfits, hflight⟩ := hj
  cases h with
  | takeByte h => exact (Job.keeps_takeByte h).unitLaw hd hj
  | suspend _ => exact j.keeps_suspendDecoder.unitLaw hd hj
  | halt _ => exact j.keeps_haltDecoder.unitLaw hd hj
  | decoderStop _ => exact j.keeps_abortDecoder.unitLaw hd hj
  | gapExpiry _ => exact j.keeps_expireGap.unitLaw hd hj
  | quiescing _ =>
    obtain ⟨h1, h2⟩ := Job.takeQuiescing_keeps htarget hfits
    exact ⟨h1, h2, hd ▸ hflight⟩
  | unitStop h =>
    have hp := hfits.2.1 h
    rw [← Store.outstanding_eq] at hfits
    obtain ⟨h1, h2⟩ := Job.stopUnit_keeps htarget hfits hp
    rw [Store.outstanding_eq] at h2
    exact ⟨h1, h2, hd ▸ hflight⟩
  | monitorExpiry _ =>
    exact ((Job.keeps_mapUnit rfl (Or.inl rfl) (Or.inl rfl) (Or.inl rfl) rfl).trans (Job.keeps_count _ _ _)).unitLaw hd hj
  | verifierStop _ => exact (j.keeps_stopVerifier _).unitLaw hd hj
  | scanVisit h => exact (Job.keeps_scanVisit h).unitLaw hd hj
  | scanStop _ => exact j.keeps_stopScan.unitLaw hd hj

theorem StoreEvent.unitLaw {s : State} {j : Job} {st : Store} {w : Work} (h : StoreEvent s j st w) (hj : j.UnitLaw s.store.inFlight) :
    w.job.UnitLaw st.inFlight := by
  have hd := h.goes.descriptor
  obtain ⟨htarget, hfits, hflight⟩ := hj
  cases h with
  | takeItem first h =>
    have hstart := Job.starts_takeItem first (s.store.outstanding .ve) htarget
    have hp : j.phase ≠ .aborting := by
      intro hp
      simp [Job.canTakeItem, hp, JobPhase.inRun] at h
    exact ⟨hstart.target htarget, hstart.unitStopFits hp hfits, hd ▸ hflight⟩
  | unitRead i data h =>
    rw [h] at hfits
    exact .of_free rfl (Job.unitRead_keeps data htarget hfits)
  | unitWrite i content h =>
    rw [h] at hfits
    exact .of_free rfl (Job.unitWrite_keeps htarget hfits)
  | verifierRead i data h =>
    rw [h] at hfits
    have hread := Work.keeps_verifierRead data ⟨j, []⟩
    exact .of_free rfl ⟨hread.starts.target htarget, hread.unitStopFits hfits⟩

theorem Settles.unitLaw {s : State} {j : Job} {flight : Option Transaction} {w : Work} (h : Settles s j flight w)
    (hj : j.UnitLaw s.store.inFlight) : w.job.UnitLaw flight := by
  have hd := h.goes.descriptor
  cases h with
  | event w h => exact h.unitLaw hj
  | store st w h => exact h.unitLaw hj
  | ran j' h =>
    cases h with
    | run limit h => exact (Job.keeps_run limit h).unitLaw hd hj
    | pause h => exact (Job.keeps_pause h).unitLaw hd hj
  | filled body f hp hf =>
    obtain ⟨h1, h2⟩ := Job.beginFill_keeps hp hf hj.1 hj.2.1
    exact ⟨h1, h2, hd ▸ hj.2.2⟩

theorem Direct.unitLaw {s : State} {j j' : Job} (h : Direct s j j') (hj : j.UnitLaw s.store.inFlight) : j'.UnitLaw s.store.inFlight := by
  have hd := h.goes.descriptor
  cases h with
  | requested j' h =>
    cases h with
    | recover h =>
      obtain ⟨h1, h2⟩ := Job.recover_keeps h hj.1 hj.2.1
      exact ⟨h1, h2, hd ▸ hj.2.2⟩
    | parcel p _ _ => exact (j.keeps_takeParcel p).unitLaw hd hj
    | repairScan h => exact (Job.keeps_repairScan h).unitLaw hd hj
  | waived body r hp hr => exact (j.keeps_waive r).unitLaw hd hj
  | closing expected hp ht => exact (Job.keeps_beginClose expected hp).unitLaw hd hj

/-! ### The law of every step -/

/-- The law at the core. -/
def Core.UnitWrites (c : Core) : Prop :=
  (c.clearing = true → c.flight = none ∧ c.job = none) ∧ (c.job = none → holdsFlight c.flight .ru = false) ∧
    ∀ j, c.job = some j → j.UnitLaw c.flight

theorem State.unitWritesTarget_iff (s : State) : s.UnitWritesTarget ↔ s.core.UnitWrites := by
  unfold State.UnitWritesTarget Core.UnitWrites Job.UnitLaw State.core
  dsimp only
  rw [Store.outstanding_eq]
  cases s.job with
  | none => simp
  | some j => simp

/-- A job is torn down only when RU holds no transaction. -/
theorem Core.UnitWrites.left {clearing : Bool} {flight : Option Transaction} {j : Job} (hc : clearing = false) (hj : j.UnitLaw flight) :
    Core.UnitWrites ⟨clearing, flight, j.left⟩ := by
  refine ⟨fun h => (by rw [hc] at h; cases h), fun hnone => ?_, fun j' hj' => Job.left_has hj hj'⟩
  unfold Job.left at hnone
  dsimp only at hnone
  split at hnone
  · next ht =>
    simp only [Job.tornDown, Bool.and_eq_true] at ht
    exact (hj.2.1.1 ht.1.2).2.2
  · cases hnone

/-- The descriptor of a LOAD_JOB has a target region in the store (R1). -/
theorem readDescriptor_fits {body : Bytes} {d : Descriptor} (h : readDescriptor body = .ok d) : d.Fits := by
  unfold readDescriptor at h
  dsimp only at h
  repeat' split at h
  all_goals cases h
  unfold Descriptor.Fits
  simp only [Config.storeBlocks]
  omega

theorem Job.start_unitLaw {d : Descriptor} (hd : d.Fits) {flight : Option Transaction} (hf : holdsFlight flight .ru = false) :
    (Job.start d).UnitLaw flight := by
  refine .of_free hf ⟨?_, fun h => (by cases h), fun h => (by cases h), fun h => (by cases h)⟩
  rw [Job.inTarget_iff]
  exact ⟨hd, ⟨List.length_replicate, Nat.zero_le _⟩,
    ⟨⟨fun c hc => (by cases hc), trivial, fun i hi => (by cases hi)⟩, fun i hi => (by cases hi)⟩,
    fun c hc => (by cases hc), fun c hc => (by cases hc), fun c hc => (by cases hc), fun c hc => (by cases hc)⟩

/-- A job means that the start-up clear is over. -/
theorem Core.UnitWrites.not_clearing {c : Core} (h : c.UnitWrites) {j : Job} (hj : c.job = some j) : c.clearing = false := by
  cases hc : c.clearing
  · rfl
  · have := (h.1 hc).2
    rw [hj] at this
    cases this

theorem CoreNext.unitWrites {s : State} {m : Core} (hm : CoreNext s m) (h : s.core.UnitWrites) : m.UnitWrites := by
  have ⟨hclear, hnone, hsome⟩ := h
  cases hm with
  | kept => exact h
  | freed op hf =>
    have hc : s.core.clearing = false := by
      cases hc : s.core.clearing
      · rfl
      · have : s.store.inFlight = none := (hclear hc).1
        rw [hf] at this
        cases this
    refine ⟨fun h => (by rw [hc] at h; cases h), fun _ => rfl, fun j hj => ?_⟩
    obtain ⟨h1, h2, _⟩ := hsome j hj
    have hru : holdsFlight s.core.flight .ru = false := by
      show holdsFlight s.store.inFlight .ru = false
      rw [hf]
      rfl
    exact .of_free rfl ⟨h1, hru ▸ h2⟩
  | gone clearing flight hf =>
    have hf : flight = none := by
      rcases hf with hf | ⟨hc, hf⟩
      · exact hf
      · exact hf.trans (hclear hc).1
    subst hf
    exact ⟨fun _ => ⟨rfl, rfl⟩, fun _ => rfl, fun j hj => by cases hj⟩
  | cleared hc =>
    have hj : s.job = none := (hclear hc).2
    rw [hj]
    exact ⟨fun h => (by cases h), fun _ => rfl, fun j hj => by cases hj⟩
  | loaded body d hc hj hd =>
    refine ⟨fun h => (by cases h), fun h => (by cases h), fun j hj' => ?_⟩
    cases hj'
    exact Job.start_unitLaw (readDescriptor_fits hd) (hnone hj)
  | direct j j' hj hd =>
    have hc := h.not_clearing hj
    refine ⟨fun h => (by rw [hc] at h; cases h), fun h => (by cases h), fun j'' hj'' => ?_⟩
    cases hj''
    exact hd.unitLaw (hsome j hj)
  | settled j w flight hj hs =>
    refine .left (h.not_clearing hj) ?_
    exact (Work.keeps_settle _ w).unitLaw (Work.goes_settle _ w).descriptor (hs.unitLaw (hsome j hj))
  | aborted j hj hp =>
    have ⟨h1, h2, h3⟩ := hsome j hj
    obtain ⟨h1', h2'⟩ := Job.beginAbort_keeps hp h1 h2
    obtain ⟨h1'', h2''⟩ := Job.stopAtOnce_keeps (n := s.freeIndex) (ve := holdsFlight s.store.inFlight .ve)
      (by rw [Job.beginAbort_eq]) h1' h2'
    have hd : (j.beginAbort.stopAtOnce s.freeIndex (holdsFlight s.store.inFlight .ru) (holdsFlight s.store.inFlight .ve)).descriptor
        = j.descriptor := ((Job.goes_beginAbort j).trans (Job.goes_stopAtOnce _ _ _ _)).descriptor
    exact .left (h.not_clearing hj) ⟨h1'', h2'', hd ▸ h3⟩

/-- The arbiter's grant of RU's request puts a transaction of the target in flight. -/
theorem Core.Granted.unitWrites {m c : Core} (hg : m.Granted c) (h : m.UnitWrites) : c.UnitWrites := by
  cases hg with
  | nothing => exact h
  | unit j op hw =>
    obtain ⟨_, _, hsome⟩ := h
    obtain ⟨h1, h2, _⟩ := hsome j rfl
    have hclear : j.unitClear = false := by
      cases hc : j.unitClear
      · rfl
      · have := (h2.1 hc).2.1
        rw [hw] at this
        cases this
    have hstart : j.Starts (j.mapUnit (fun u => { u with waiting := none })) :=
      Job.starts_unit rfl id fun hj => hj.unit.mono (Or.inl rfl) (Or.inl rfl) (Or.inl rfl) (Or.inr rfl)
    refine ⟨fun h => (by cases h), fun h => (by cases h), fun j' hj' => ?_⟩
    cases hj'
    refine ⟨hstart.target h1, hstart.unitStopFits_unreported hclear h2, fun op' ho => ?_⟩
    cases ho
    exact h1.unit.2.2.2 op hw
  | verifier j i hw =>
    obtain ⟨_, _, hsome⟩ := h
    obtain ⟨h1, h2, _⟩ := hsome j rfl
    have hkeeps : j.Keeps (j.mapVerifier (fun v => { v with waiting := none })) := Job.keeps_mapVerifier _ j
    refine ⟨fun h => (by cases h), fun h => (by cases h), fun j' hj' => ?_⟩
    cases hj'
    exact .of_free rfl ⟨hkeeps.starts.target h1, hkeeps.unitStopFits h2⟩
  | host op job =>
    obtain ⟨_, hnone, hsome⟩ := h
    refine ⟨fun h => (by cases h), fun _ => rfl, fun j hj => ?_⟩
    obtain ⟨h1, h2, _⟩ := hsome j hj
    exact .of_free rfl ⟨h1, h2⟩

/-- Settles O57: each work at the job keeps its block numbers in the target and RU's ABORT stop in its fit, and a grant takes RU's waiting
request as the transaction in flight. -/
theorem stepKeepsUnitWritesTarget : Obligations.StepKeepsUnitWritesTarget := by
  unfold Obligations.StepKeepsUnitWritesTarget
  intro s t h hs
  rw [State.unitWritesTarget_iff] at h ⊢
  rcases step_happened hs with rfl | ⟨rest, hh⟩
  · exact h
  · obtain ⟨m, hm, hg⟩ := hh.core
    exact hg.unitWrites (hm.unitWrites h)

end Sys2Proof.Machine
end

section
/-! The requests at the link and at JC: what the request table discards, the early refusals, the job-state test of R9, and that every
command completes but one (R8, R9, R171, R172). -/

namespace Sys2Proof.Machine

/-! ### Every command -/

/-- BLOCK_DAMAGED of a block that exists completes; of any other it is the model's fault (log entry 8). -/
theorem exec_blockDamaged (index : Nat) (content : Bytes) (s : State) :
    (∃ t, exec (.blockDamaged index content) s = .next t)
      ∨ Config.storeBlocks ≤ index ∧ exec (.blockDamaged index content) s = .fault (.noSuchBlock index) := by
  by_cases h : index < Config.storeBlocks
  · exact Or.inl ⟨_, dif_pos h⟩
  · exact Or.inr ⟨Nat.le_of_not_lt h, dif_neg h⟩

/-- FRAME_GAP_EXPIRY completes whether or not a frame is assembled. -/
theorem exec_frameGapExpiry_completes (s : State) : ∃ t, exec .frameGapExpiry s = .next t := by
  show ∃ t, execFrameGapExpiry s = .next t
  unfold execFrameGapExpiry
  split
  · exact ⟨_, rfl⟩
  · exact ⟨_, rfl⟩

/-- Settles O3: the meaning of every command but two is a next state as it stands; a gap expiry is one in both states of the receiver, and
a damage is one where the block exists. -/
theorem everyCommandCompletes : Obligations.EveryCommandCompletes := by
  unfold Obligations.EveryCommandCompletes
  intro c s
  cases c with
  | blockDamaged index content =>
    rcases exec_blockDamaged index content s with h | ⟨hlarge, hfault⟩
    · exact Or.inl h
    · exact Or.inr ⟨index, content, rfl, hlarge, hfault⟩
  | frameGapExpiry => exact Or.inl (exec_frameGapExpiry_completes s)
  | _ => exact Or.inl ⟨_, rfl⟩

/-! ### The request table -/

/-- A request with an outstanding tag is discarded (R171). -/
theorem State.accept_tag {s : State} {tag code : Byte} {body : Bytes} (perform : State → State) (hlen : body.length ≤ Config.maxBody)
    (htag : s.link.hasTag tag = true) : s.accept tag code body perform = s.mapLink (Link.discard .tag) := by
  unfold State.accept
  rw [if_neg (Nat.not_lt.mpr hlen), if_pos htag]

/-- A request that finds the table full is discarded (R171). -/
theorem State.accept_full {s : State} {tag code : Byte} {body : Bytes} (perform : State → State) (hlen : body.length ≤ Config.maxBody)
    (htag : s.link.hasTag tag = false) (hfull : Config.tableEntries ≤ s.link.table.length) :
    s.accept tag code body perform = s.mapLink (Link.discard .overrun) := by
  unfold State.accept
  rw [if_neg (Nat.not_lt.mpr hlen), if_neg (by simp [htag]), if_pos hfull]

/-- While the start-up clear runs a request that takes an entry is answered NOT_READY (R8). -/
theorem State.accept_clearing {s : State} {tag code : Byte} {body : Bytes} (perform : State → State)
    (hlen : body.length ≤ Config.maxBody) (htag : s.link.hasTag tag = false) (hroom : s.link.table.length < Config.tableEntries)
    (hclear : s.store.clear.isSome = true) : s.accept tag code body perform = s.answered tag code .notReady .empty := by
  unfold State.accept
  rw [if_neg (Nat.not_lt.mpr hlen), if_neg (by simp [htag]), if_neg (Nat.not_le.mpr hroom)]
  exact congrArg State.transmit (if_pos hclear)

/-- Every request command has a code. -/
theorem Instr.exists_code {c : Instr} {tag : Byte} {body : Bytes} (h : c.request? = some (tag, body)) :
    ∃ code, Instr.IsRequest c tag code body := by
  cases c <;> cases h <;> exact ⟨_, rfl, rfl⟩

/-- A good request frame, of a known code or not, passes the request table to something that performs it. -/
theorem exec_request_accept {c : Instr} {tag : Byte} {body : Bytes}
    (h : c.request? = some (tag, body) ∨ ∃ code, c = .unknownRequest tag code body) (s : State) :
    ∃ code perform, exec c s = .next (s.accept tag code body perform) := by
  rcases h with h | ⟨code, rfl⟩
  · obtain ⟨code, hrequest⟩ := Instr.exists_code h
    exact ⟨code, _, exec_request hrequest s⟩
  · by_cases hknown : code ∈ requestCodes
    · obtain ⟨c, hrequest⟩ := exists_isRequest hknown tag body
      exact ⟨code, _, congrArg Host.Outcome.next (State.takeFrame_request hrequest s)⟩
    · exact ⟨code, _, congrArg Host.Outcome.next (State.takeFrame_unknown hknown tag body s)⟩

/-- Settles O4: every good request frame goes through the request table, which discards it by its tag and then for want of room. -/
theorem requestTableDiscards : Obligations.RequestTableDiscards := by
  unfold Obligations.RequestTableDiscards
  intro c tag body s hc hlen
  obtain ⟨code, perform, hexec⟩ := exec_request_accept hc s
  rw [hexec]
  exact ⟨fun htag => congrArg Host.Outcome.next (State.accept_tag perform hlen htag),
    fun htag hfull => congrArg Host.Outcome.next (State.accept_full perform hlen htag hfull)⟩

/-- A frame of an unknown code is answered UNKNOWN_REQUEST by whatever passes the table. -/
theorem exec_unknownRequest {code : Byte} (h : code ∉ requestCodes) (tag : Byte) (body : Bytes) (s : State) :
    exec (.unknownRequest tag code body) s = .next (s.accept tag code body (State.reply tag .unknownRequest .empty)) :=
  congrArg Host.Outcome.next (State.takeFrame_unknown h tag body s)

/-- Settles O5: the start-up clear answers before anything is performed; then the code, and then the length, are judged. -/
theorem earlyRefusalsAnswered : Obligations.EarlyRefusalsAnswered := by
  unfold Obligations.EarlyRefusalsAnswered
  refine ⟨fun c tag code body s hc hlen hclear htag hroom => ?_, fun tag code body s hcode hlen hclear htag hroom => ?_,
    fun c tag code body s hr hc hbad hlen hclear htag hroom => ?_⟩
  · rcases hc with hrequest | ⟨rfl, hcode⟩
    · rw [exec_request hrequest, State.request, State.accept_clearing _ hlen htag hroom hclear]
    · rw [exec_unknownRequest hcode, State.accept_clearing _ hlen htag hroom hclear]
  · rw [exec_unknownRequest hcode, State.accept_open _ hlen htag hroom hclear]
    rfl
  · rw [exec_request ⟨hr, hc⟩, State.request, State.accept_open _ hlen htag hroom hclear, hbad]
    rfl

/-! ### The job-state test -/

/-- A job-level request that R9 refuses is answered with the refusal and does no work. -/
theorem performed_refused {c : Instr} {tag : Byte} {body : Bytes} {r : JobRequest} {refusal : ReplyStatus} {s : State}
    (hc : c.request? = some (tag, body)) (hr : jobRequestOf c = some r)
    (href : jobTest r (s.job.map (fun j => j.phase)) = some refusal) : performed c s = s.reply tag refusal .empty := by
  cases c <;> cases hr <;> cases hc
  case loadJob =>
    show State.loadJob tag body s = _
    unfold State.loadJob
    rw [href]
  all_goals
    dsimp only [performed, State.run, State.pause, State.recover, State.abort, State.parcel, State.getMap, State.getRepairs, State.fill,
      State.waive, State.repairScan, State.closeImage]
    exact State.atJobState_refused _ href

/-- Settles O6: the table is R9's, and every job-level request is judged by its row before its work. -/
theorem jobStateTestOfR9 : Obligations.JobStateTestOfR9 := by
  unfold Obligations.JobStateTestOfR9
  refine ⟨by decide, fun c tag code body s r refusal hrequest hcode hr haccepts href => ?_⟩
  rw [exec_request ⟨hrequest, hcode⟩, haccepts.request_eq, performed_refused (s := s.entered tag code) hrequest hr href]
  rfl

end Sys2Proof.Machine
end

section
/-! LOAD_JOB: the values of fields, the tests of a descriptor in their order, and the job created (R1, R2, R184). -/

namespace Sys2Proof.Machine

/-! ### Fields -/

theorem fromLe_lt (bytes : Bytes) : fromLe bytes < 256 ^ bytes.length := by
  induction bytes with
  | nil => decide
  | cons b rest ih =>
    have hb : b.toNat < 256 := b.isLt
    simp only [fromLe, List.length_cons, pow_succ]
    omega

/-- A field is below the bound of its size. -/
theorem field_lt (body : Bytes) (offset size : Nat) : field body offset size < 256 ^ size :=
  (fromLe_lt _).trans_le (Nat.pow_le_pow_right (by decide) (List.length_take_le _ _))

/-- A two-byte field fits a word of sixteen bits. -/
theorem toNat_field_two (body : Bytes) (offset : Nat) : (BitVec.ofNat 16 (field body offset 2)).toNat = field body offset 2 := by
  rw [BitVec.toNat_ofNat]
  exact Nat.mod_eq_of_lt (field_lt body offset 2)

/-- A one-byte field fits a byte. -/
theorem toNat_field_one (body : Bytes) (offset : Nat) : (BitVec.ofNat 8 (field body offset 1)).toNat = field body offset 1 := by
  rw [BitVec.toNat_ofNat]
  exact Nat.mod_eq_of_lt (field_lt body offset 1)

/-! ### LOAD_JOB where there is no job -/

theorem State.loadJob_none {s : State} (hj : s.job = none) (tag : Byte) (body : Bytes) :
    s.loadJob tag body =
      s.withFields tag (readDescriptor body) (fun d s => { s with job := some (Job.start d) }.reply tag .ok .empty) := by
  unfold State.loadJob
  rw [hj]
  rfl

theorem State.Accepts.exec_loadJob {s : State} {tag : Byte} {body : Bytes} (h : s.Accepts tag 0x10 body) (hj : s.job = none) :
    exec (.loadJob tag body) s = .next ((s.entered tag 0x10).withFields tag (readDescriptor body)
      (fun d s => { s with job := some (Job.start d) }.reply tag .ok .empty)).transmit := by
  rw [exec_request ⟨rfl, rfl⟩, h.request_eq]
  exact congrArg (fun s => Host.Outcome.next s.transmit) (State.loadJob_none (s := s.entered tag 0x10) hj tag body)

/-- Settles O9: the job created is the one of the descriptor with every part at its first value. -/
theorem loadJobCreates : Obligations.LoadJobCreates := by
  unfold Obligations.LoadJobCreates
  intro tag body s d haccepts hj hd
  rw [haccepts.exec_loadJob hj, hd, State.withFields_ok]
  rfl

/-! ### The descriptor's tests -/

/-- Two regions overlap when some block lies in both (R1). -/
theorem regionsOverlap_eq_true {a la b lb : Nat} :
    regionsOverlap a la b lb = true ↔ ∃ k, (a ≤ k ∧ k < a + la) ∧ b ≤ k ∧ k < b + lb := by
  simp only [regionsOverlap, Bool.and_eq_true, decide_eq_true_eq]
  constructor
  · rintro ⟨⟨⟨h1, h2⟩, h3⟩, h4⟩
    exact ⟨max a b, by omega⟩
  · rintro ⟨k, h⟩
    omega

/-- The three fill policies have the codes 0, 1 and 2 (R183). -/
theorem FillPolicy.ofCode_eq_some {n : Nat} {policy : FillPolicy} (h : FillPolicy.ofCode n = some policy) :
    n ≤ 2 ∧ (policy = .carry ↔ n = 0) ∧ (policy = .byte ↔ n = 1) ∧ (policy = .noFill ↔ n = 2) := by
  unfold FillPolicy.ofCode at h
  split_ifs at h <;> cases h <;> simp [*]

theorem FillPolicy.ofCode_eq_none {n : Nat} : FillPolicy.ofCode n = none ↔ 2 < n := by
  unfold FillPolicy.ofCode
  split_ifs <;> simp only [true_iff, false_iff] <;> omega

/-- The fields that R1 tests, in its order: a number below the last of them is one of them or takes any value. -/
theorem descriptorFieldPasses_of_lt {body : Bytes} {number : Nat} (h2 : 2 < number → descriptorFieldPasses body 2)
    (h3 : 3 < number → descriptorFieldPasses body 3) (h4 : 4 < number → descriptorFieldPasses body 4)
    (h5 : 5 < number → descriptorFieldPasses body 5) (h6 : 6 < number → descriptorFieldPasses body 6)
    (h8 : 8 < number → descriptorFieldPasses body 8) (h9 : 9 < number → descriptorFieldPasses body 9)
    (h10 : 10 < number → descriptorFieldPasses body 10) :
    ∀ earlier, earlier < number → descriptorFieldPasses body earlier
  | 0, _ | 1, _ | 7, _ | _ + 11, _ => trivial
  | 2, h => h2 h
  | 3, h => h3 h
  | 4, h => h4 h
  | 5, h => h5 h
  | 6, h => h6 h
  | 8, h => h8 h
  | 9, h => h9 h
  | 10, h => h10 h

/-- The regions' test of R1, as the blocks of the target that it allows. -/
theorem descriptorFieldPasses_target {body : Bytes} :
    descriptorFieldPasses body 5 ↔ ¬(field body 8 2 < 1 ∨ 2048 < field body 8 2 ∨ 4096 < field body 6 2 + field body 8 2
      ∨ regionsOverlap (field body 2 2) (field body 4 2) (field body 6 2) (field body 8 2) = true) := by
  rw [regionsOverlap_eq_true]
  simp only [descriptorFieldPasses, not_or, not_lt, not_exists]

/-- What LOAD_JOB's tests say of a body: the first field that fails, or a descriptor of a body whose fields all pass. -/
theorem readDescriptor_spec (body : Bytes) :
    (∃ number, readDescriptor body = .error number ∧ ¬descriptorFieldPasses body number ∧
      ∀ earlier, earlier < number → descriptorFieldPasses body earlier) ∨
    ∃ policy, FillPolicy.ofCode (field body 15 1) = some policy ∧ (∀ number, descriptorFieldPasses body number) ∧
      readDescriptor body = .ok
        { jobId := BitVec.ofNat 16 (field body 0 2), baseFirst := field body 2 2, baseLength := field body 4 2
          targetFirst := field body 6 2, targetLength := field body 8 2, bandWidth := field body 10 1
          firstSequence := BitVec.ofNat 16 (field body 11 2), gapHold := field body 13 1, progressPeriod := field body 14 1
          fillPolicy := policy, fillByte := BitVec.ofNat 8 (field body 16 1) } := by
  have h2 : descriptorFieldPasses body 2 ↔ ¬4095 < field body 2 2 := Nat.not_lt.symm
  have h3 : descriptorFieldPasses body 3 ↔ ¬(2048 < field body 4 2 ∨ 4096 < field body 2 2 + field body 4 2) := by
    simp only [descriptorFieldPasses, not_or, not_lt]
  have h4 : descriptorFieldPasses body 4 ↔ ¬4095 < field body 6 2 := Nat.not_lt.symm
  have h5 := @descriptorFieldPasses_target body
  have h6 : descriptorFieldPasses body 6 ↔ ¬(field body 10 1 < 1 ∨ 64 < field body 10 1) := by
    simp only [descriptorFieldPasses, not_or, not_lt]
  have h8 : descriptorFieldPasses body 8 ↔ ¬(field body 13 1 < 1 ∨ 250 < field body 13 1) := by
    simp only [descriptorFieldPasses, not_or, not_lt]
  have h9 : descriptorFieldPasses body 9 ↔ ¬15 < field body 14 1 := Nat.not_lt.symm
  have h10 : descriptorFieldPasses body 10 ↔ ¬2 < field body 15 1 := Nat.not_lt.symm
  unfold readDescriptor
  dsimp only
  split_ifs with d2 d3 d4 d5 d6 d8 d9
  case neg =>
    have hpass (h : descriptorFieldPasses body 10) : ∀ number, descriptorFieldPasses body number := fun number =>
      descriptorFieldPasses_of_lt (fun _ => h2.mpr d2) (fun _ => h3.mpr d3) (fun _ => h4.mpr d4) (fun _ => h5.mpr d5)
        (fun _ => h6.mpr d6) (fun _ => h8.mpr d8) (fun _ => h9.mpr d9) (fun _ => h) number (Nat.lt_succ_self number)
    split
    · next hnone =>
      have hfails : ¬descriptorFieldPasses body 10 := fun h => h10.mp h (FillPolicy.ofCode_eq_none.mp hnone)
      exact Or.inl ⟨10, rfl, hfails, descriptorFieldPasses_of_lt (fun _ => h2.mpr d2) (fun _ => h3.mpr d3) (fun _ => h4.mpr d4)
        (fun _ => h5.mpr d5) (fun _ => h6.mpr d6) (fun _ => h8.mpr d8) (fun _ => h9.mpr d9) fun h => absurd h (by decide)⟩
    · next policy hsome => exact Or.inr ⟨policy, hsome, hpass (FillPolicy.ofCode_eq_some hsome).1, rfl⟩
  all_goals
    refine Or.inl ⟨_, rfl, ?_, descriptorFieldPasses_of_lt ?_ ?_ ?_ ?_ ?_ ?_ ?_ ?_⟩
    all_goals simp only [*, not_true_eq_false, not_false_eq_true, imp_self, Nat.reduceLT,
      Nat.lt_irrefl, false_imp_iff]

/-- Settles O10: a failing body names its first failing field and is answered with it; a body whose fields all pass is read as they stand. -/
theorem loadJobTestsDescriptor : Obligations.LoadJobTestsDescriptor := by
  unfold Obligations.LoadJobTestsDescriptor
  refine ⟨fun tag body s number haccepts hj herror => ?_, fun body number herror => ?_, fun body hpass => ?_, fun body d hd => ?_⟩
  · rw [haccepts.exec_loadJob hj, herror, State.withFields_error]
    rfl
  · rcases readDescriptor_spec body with ⟨number', h, hspec⟩ | ⟨policy, _, _, h⟩
    · cases herror.symm.trans h
      exact hspec
    · cases herror.symm.trans h
  · rcases readDescriptor_spec body with ⟨number, _, hfails, _⟩ | ⟨policy, _, _, h⟩
    · exact absurd (hpass number) hfails
    · exact ⟨_, h⟩
  · rcases readDescriptor_spec body with ⟨number, h, _⟩ | ⟨policy, hpolicy, hpass, h⟩
    · cases hd.symm.trans h
    · cases hd.symm.trans h
      obtain ⟨_, hcarry, hbyte, hnone⟩ := FillPolicy.ofCode_eq_some hpolicy
      exact ⟨hpass, toNat_field_two body 0, rfl, rfl, rfl, rfl, rfl, toNat_field_two body 11, rfl, rfl, hcarry, hbyte, hnone,
        toNat_field_one body 16⟩

end Sys2Proof.Machine
end

section
/-! What ends an event outside the states that JC tests, and the requests RUN, PAUSE, RECOVER and ABORT (R10, R13, R18, R146). -/

namespace Sys2Proof.Machine

/-! ### The end of an event -/

/-- JC tests nothing but a STOPPING and a QUIESCING job: elsewhere only the timers follow an event. -/
theorem Work.settle_untested {w : Work} (h1 : w.job.phase ≠ .stopping) (h2 : w.job.phase ≠ .quiescing) (o : Bool) :
    w.settle o = w.map Job.settleTimers := by
  unfold Work.settle Work.testDrain Work.testQuiesce
  simp [h1, h2]

/-- Outside ABORTING nothing is torn down. -/
theorem Job.tornDown_of_ne {j : Job} (h : j.phase ≠ .aborting) : j.tornDown = false := by
  simp [Job.tornDown, h]

/-- The end of an event at a job that JC does not test: its notices are posted and its timers settled. -/
theorem State.settleWork_untested {w : Work} (h1 : w.job.phase ≠ .stopping) (h2 : w.job.phase ≠ .quiescing) (h3 : w.job.phase ≠ .aborting)
    (s : State) : s.settleWork w = { s with link := s.link.postAll w.notices, job := some w.job.settleTimers } := by
  unfold State.settleWork
  rw [Work.settle_untested h1 h2]
  refine State.teardown_eq_self (j := w.job.settleTimers) rfl (Job.tornDown_of_ne ?_)
  obtain ⟨timer, monitor, h⟩ := w.job.settleTimers_spec
  rw [h]
  exact h3

/-- Until JC holds both reports the job stays. -/
theorem Job.tornDown_of_open {j : Job} (h : j.unitClear = false ∨ j.verifierClear = false) : j.tornDown = false := by
  rcases h with h | h
  · simp [Job.tornDown, h]
  · simp [Job.tornDown, h]

/-- A teardown that is complete: the job is gone and ABORTED is posted (R150). -/
theorem State.teardown_done {s : State} {j : Job} (hj : s.job = some j) (h : j.tornDown = true) :
    s.teardown = ({ s with job := none } : State).post (.aborted j.descriptor.jobId) := by
  unfold State.teardown
  rw [hj]
  exact if_pos h

/-! ### RUN -/

/-- A request that R9 takes in READY only, in READY. -/
theorem State.atJobState_ready {s : State} {j : Job} (tag : Byte) (perform : Job → State → State) (hj : s.job = some j)
    (hp : j.phase = .ready) : s.atJobState tag .readyOnly perform = perform j s :=
  State.atJobState_taken perform hj (by rw [hp]; rfl)

/-- The monitor that RUN starts. -/
def Job.runMonitor (j : Job) : Monitor :=
  if j.descriptor.progressPeriod = 0 then j.unit.monitor else .running (j.descriptor.progressPeriod * 100)

/-- The job at RUN before SD goes on from what waits. -/
def Job.started (limit : Limit) (j : Job) : Job :=
  { j with
    phase := .running
    decoder := { j.decoder with running := true, limit := some limit, blocksCovered := 0, sectionsCompleted := 0 }
    unit := { j.unit with monitor := j.runMonitor } }

theorem Job.startMonitor_eq (j : Job) : j.startMonitor = { j with unit := { j.unit with monitor := j.runMonitor } } := by
  unfold Job.startMonitor Job.runMonitor
  split
  · rfl
  · rfl

theorem Job.run_eq (limit : Limit) (j : Job) : j.run limit = (j.started limit).wakeDecoder := by
  unfold Job.run
  rw [Job.startMonitor_eq]
  rfl

/-- An accepted RUN in READY. -/
theorem State.Accepts.exec_run {s : State} {j : Job} {tag : Byte} {body : Bytes} (h : s.Accepts tag 0x11 body) (hj : s.job = some j)
    (hp : j.phase = .ready) :
    exec (.run tag body) s = .next ((s.entered tag 0x11).withFields tag (readLimit body) (fun limit s =>
      (s.reply tag .ok .empty).settleWork ⟨(j.started limit).wakeDecoder, []⟩)).transmit := by
  rw [exec_request ⟨rfl, rfl⟩, h.request_eq]
  show Host.Outcome.next (State.run tag body (s.entered tag 0x11)).transmit = _
  unfold State.run
  rw [State.atJobState_ready tag _ ((s.entered_job tag 0x11).trans hj) hp]
  simp only [quietly, Job.run_eq]

/-- The limits of R10, by their mode. -/
theorem readLimit_spec (body : Bytes) :
    let mode := field body 0 1
    let count := field body 1 2
    (2 < mode → readLimit body = .error 1) ∧ (mode = 0 → readLimit body = .ok .continuous) ∧
      (mode = 1 → readLimit body = if 1 ≤ count ∧ count ≤ 4095 then .ok (.blocks count) else .error 2) ∧
      (mode = 2 → readLimit body = if 1 ≤ count ∧ count ≤ 255 then .ok (.sections count) else .error 2) := by
  intro mode count
  unfold readLimit
  refine ⟨fun h => if_pos h, fun h => ?_, fun h => ?_, fun h => ?_⟩
  · rw [if_neg (by omega), if_pos h]
  · rw [if_neg (by omega), if_neg (by omega), if_pos h]
    by_cases hc : 1 ≤ count ∧ count ≤ 4095
    · rw [if_pos hc, if_neg (by omega)]
    · rw [if_neg hc, if_pos (by omega)]
  · rw [if_neg (by omega), if_neg (by omega), if_neg (by omega)]
    by_cases hc : 1 ≤ count ∧ count ≤ 255
    · rw [if_pos hc, if_neg (by omega)]
    · rw [if_neg hc, if_pos (by omega)]

/-- The timers of a job that runs, with its gap hold timer idle. -/
theorem Job.settleTimers_running {j : Job} (hp : j.phase = .running) (hidle : j.window.gapTimer = .idle) :
    j.settleTimers =
      { j with window := { j.window with gapTimer := if j.window.gap then .running j.descriptor.gapHold else .idle } } := by
  rw [Job.settleTimers_eq]
  simp [hp, hidle, JobPhase.inRun]

/-- Settles O11: an accepted RUN is the job started and what SD makes of its waiting bytes; with none waiting only the timers follow. -/
theorem runStartsTheRun : Obligations.RunStartsTheRun := by
  unfold Obligations.RunStartsTheRun
  refine ⟨readLimit_spec, fun tag body s j haccepts hj hp => ⟨fun number herror => ?_, fun limit hlimit => ⟨?_, fun h1 h2 h3 => ?_⟩⟩⟩
  · rw [haccepts.exec_run hj hp, herror, State.withFields_error]
    rfl
  · rw [haccepts.exec_run hj hp, hlimit, State.withFields_ok]
    rfl
  · have hwake : (j.started limit).wakeDecoder = j.started limit := Job.wakeDecoder_nothing h1 h2
    have htimers : (j.started limit).settleTimers = _ := Job.settleTimers_running rfl h3
    have hsettle (s : State) : s.settleWork ⟨j.started limit, []⟩ = { s with job := some (j.started limit).settleTimers } :=
      State.settleWork_untested JobPhase.noConfusion JobPhase.noConfusion JobPhase.noConfusion s
    rw [haccepts.exec_run hj hp, hlimit, State.withFields_ok, hwake, hsettle, htimers]
    rfl

/-! ### PAUSE and RECOVER -/

/-- An accepted PAUSE. -/
theorem State.Accepts.exec_pause {s : State} {j : Job} {tag : Byte} {body : Bytes} (h : s.Accepts tag 0x12 body) (hj : s.job = some j)
    (hp : jobTest .pause (some j.phase) = none) :
    exec (.pause tag body) s = .next (
      let s := (s.entered tag 0x12).reply tag .ok .empty
      if j.phase = .running then s.settleWork ⟨j.pause, []⟩ else s).transmit := by
  rw [exec_request ⟨rfl, rfl⟩, h.request_eq]
  show Host.Outcome.next (State.pause tag (s.entered tag 0x12)).transmit = _
  unfold State.pause
  rw [State.atJobState_taken _ ((s.entered_job tag 0x12).trans hj) hp]
  rfl

/-- Settles O12: PAUSE in RUNNING is the one change of the job that JC then tests, and RECOVER sets the named parts back. -/
theorem pauseAndRecover : Obligations.PauseAndRecover := by
  unfold Obligations.PauseAndRecover
  refine ⟨fun tag body s j haccepts hj => ⟨fun hp => ?_, fun hp => ?_⟩, fun tag body s j haccepts hj hp => ?_⟩
  · rw [haccepts.exec_pause hj (by rw [hp]; rfl)]
    simp only [hp, if_true]
    rfl
  · rw [haccepts.exec_pause hj (by rw [hp]; rfl)]
    simp only [hp, reduceCtorEq, if_false]
    rfl
  · rw [exec_request ⟨rfl, rfl⟩, haccepts.request_eq]
    show Host.Outcome.next (State.recover tag (s.entered tag 0x13)).transmit = _
    unfold State.recover
    rw [State.atJobState_taken _ ((s.entered_job tag 0x13).trans hj) (by rw [hp]; rfl)]
    rfl

/-! ### ABORT -/

/-- An accepted ABORT. -/
theorem State.Accepts.exec_abort {s : State} {j : Job} {tag : Byte} {body : Bytes} (h : s.Accepts tag 0x14 body) (hj : s.job = some j)
    (hp : j.phase ≠ .aborting) :
    exec (.abort tag body) s = .next ({ ({ s.entered tag 0x14 with freeIndex := s.freeIndex + 1 } : State).reply tag .started .empty with
      job := some (j.beginAbort.stopAtOnce s.freeIndex (s.store.outstanding .ru) (s.store.outstanding .ve)) } : State).teardown.transmit := by
  rw [exec_request ⟨rfl, rfl⟩, h.request_eq]
  show Host.Outcome.next (State.abort tag (s.entered tag 0x14)).transmit = _
  unfold State.abort
  rw [State.atJobState_taken _ ((s.entered_job tag 0x14).trans hj) (by cases hq : j.phase <;> simp_all [jobTest])]
  rfl

/-- The job that ABORT leaves before any stop is taken. -/
def Job.aborting (j : Job) : Job :=
  { j with
    phase := .aborting
    faultRecord := none
    signals := { j.signals with decoderStop := true, unitStop := true, verifierStop := true, scanStop := true }
    window := { j.window with gapTimer := .idle }
    unit := { j.unit with monitor := .stopped } }

/-- What the stops taken in ABORT's own event come to: each of the four parts is as its own stop leaves it, or as ABORT does. -/
theorem Job.aborting_stopAtOnce (n : Nat) (ru ve : Bool) (j : Job) :
    j.aborting.stopAtOnce n ru ve = { j.aborting with
      signals := { j.aborting.signals with
        decoderStop := !Config.decoderStopsAtOnce n, unitStop := !Config.unitStopsAtOnce n
        verifierStop := !Config.verifierStopsAtOnce n, scanStop := !Config.scanStopsAtOnce n }
      decoder := if Config.decoderStopsAtOnce n then { j.decoder with
          running := false, waitingOutput := [], waitingBytes := [], record := .nothing }
        else j.decoder
      unit := if Config.unitStopsAtOnce n then (j.aborting.stopUnit ru).unit else j.aborting.unit
      unitClear := if Config.unitStopsAtOnce n then (j.aborting.stopUnit ru).unitClear else j.unitClear
      verifier := if Config.verifierStopsAtOnce n then ⟨[], none, none, none, ve⟩ else j.verifier
      verifierClear := if Config.verifierStopsAtOnce n then !ve else j.verifierClear
      tracker := if Config.scanStopsAtOnce n then { j.tracker with scan := none } else j.tracker } := by
  unfold Job.stopAtOnce
  cases Config.decoderStopsAtOnce n <;> cases Config.unitStopsAtOnce n <;> cases Config.verifierStopsAtOnce n <;>
    cases Config.scanStopsAtOnce n <;> cases ru <;> rfl

/-- A RU that takes its stop with no transaction outstanding reports at once. -/
theorem Job.stopUnit_unitClear (j : Job) : (j.stopUnit false).unitClear = true := rfl

/-- An idle transmitter starts the oldest unsent notice when no reply waits or four replies have gone (R174). -/
theorem Link.transmit_notice {l : Link} {n : HeldNotice} (hidle : l.sending = none)
    (hunsent : l.notices.find? (fun n => !n.sent) = some n) (h : l.replies = [] ∨ 4 ≤ l.replyRun) : l.transmit = l.sendNotice n := by
  unfold Link.transmit
  rw [hidle, hunsent]
  rcases h with h | h
  · rw [h]
  · cases l.replies with
    | nil => rfl
    | cons r rest => exact if_pos h

/-- A notice posted to an empty queue while four replies have gone is the next frame. -/
theorem Link.post_transmit_sending {l : Link} (n : Notice) (hidle : l.sending = none) (hrun : 4 ≤ l.replyRun) (hnone : l.notices = []) :
    (l.post n).transmit.sending = some (.notice n l.nextNotice) := by
  have hpost : l.post n = { l with notices := [⟨n, l.nextNotice, false⟩], nextNotice := l.nextNotice + 1 } := by
    unfold Link.post
    rw [hnone]
    rfl
  have hfirst : (l.post n).notices.find? (fun n => !n.sent) = some ⟨n, l.nextNotice, false⟩ := by
    rw [hpost]
    rfl
  rw [Link.transmit_notice ((Link.post_sending n l).trans hidle) hfirst (Or.inr (by rwa [Link.post_replyRun]))]
  rfl

/-- Settles O13: ABORT leaves the job of R18, the stops drawn are taken at it, and JC's teardown follows. -/
theorem abortBeginsTeardown : Obligations.AbortBeginsTeardown := by
  unfold Obligations.AbortBeginsTeardown
  intro tag body s j haccepts hj hp
  have hexec := haccepts.exec_abort hj hp
  have hstopped := Job.aborting_stopAtOnce s.freeIndex (s.store.outstanding .ru) (s.store.outstanding .ve) j
  rw [Job.beginAbort_eq, ← Job.aborting, hstopped] at hexec
  refine ⟨hexec, fun hopen => ?_, fun hru hve hruHolds hveHolds => ?_⟩
  · rw [State.teardown_eq_self rfl (Job.tornDown_of_open hopen)] at hexec
    exact hexec
  · rw [hru, hve, hruHolds, hveHolds] at hexec
    rw [State.teardown_done rfl rfl] at hexec
    refine ⟨hexec, fun hidle hrun hnone => ⟨_, hexec, ?_⟩⟩
    exact Link.post_transmit_sending (l := (s.link.enter tag 0x14).reply tag .started .empty) (.aborted j.descriptor.jobId) hidle
      (Nat.le_of_eq hrun.symm) hnone

end Sys2Proof.Machine
end

section
/-! PW: the verdict of a parcel, what a PARCEL does to the window, and the expiry of the gap hold timer (R61 to R73, R89, R92). -/

namespace Sys2Proof.Machine

/-! ### The verdict -/

/-- The verdict with the sizes of the window and the history. -/
theorem Window.verdict_eq (w : Window) (n : Word16) :
    w.verdict n =
      if w.distance n < 16 then if (w.held? n).isSome then .duplicate else .taken
      else if w.distance n ≤ 32767 then .ahead
      else if w.distance n < 65504 then .stale
      else match w.history[65536 - w.distance n - 1]? with
        | some .consumed => .duplicate
        | some .lost => .late
        | none => .stale := rfl

/-- Settles O14: the table of R61, by the distance of the number from B. -/
theorem verdictTableOfR61 : Obligations.VerdictTableOfR61 := by
  unfold Obligations.VerdictTableOfR61
  intro w n k
  have hk : w.distance n = k := rfl
  have hlt : k < 65536 := (n - w.base).isLt
  have hindex : 65536 - k - 1 = 65535 - k := by omega
  rw [Window.verdict_eq, hk, hindex]
  refine ⟨fun h => if_pos (by omega), fun h1 h2 => ?_, fun h1 h2 => ?_, fun h1 h2 => ?_, fun h1 h2 => ?_, fun h1 h2 => ?_⟩
  · rw [if_neg (by omega), if_pos h2]
  · rw [if_neg (by omega), if_neg (by omega), if_pos (by omega)]
  all_goals rw [if_neg (by omega), if_neg (by omega), if_neg (by omega), h2]

/-! ### PARCEL -/

/-- JC's count of an event: the counters alone (R4, R18). -/
theorem Job.count_counters (c : JobCounter) (k : Nat) (j : Job) :
    j.count c k = { j with counters := if j.phase = .aborting then j.counters else j.counters.add c k } := by
  unfold Job.count
  split
  · rfl
  · rfl

/-- The counters after a verdict (R65). -/
def JobCounters.judged (v : Verdict) (c : JobCounters) : JobCounters :=
  match v.counter with
  | some name => c.add name 1
  | none => c

theorem JobCounters.judged_taken (c : JobCounters) :
    c.judged .taken = { c with parcelsTaken := min (c.parcelsTaken + 1) 4294967295 } := rfl

theorem JobCounters.judged_duplicate (c : JobCounters) :
    c.judged .duplicate = { c with duplicates := min (c.duplicates + 1) 4294967295 } := rfl

theorem JobCounters.judged_late (c : JobCounters) :
    c.judged .late = { c with lateParcels := min (c.lateParcels + 1) 4294967295 } := rfl

theorem JobCounters.judged_stale (c : JobCounters) :
    c.judged .stale = { c with staleParcels := min (c.staleParcels + 1) 4294967295 } := rfl

theorem JobCounters.judged_ahead (c : JobCounters) : c.judged .ahead = c := rfl

/-- The window after a parcel, its timer apart: a parcel that is taken is stored (R62). -/
def Window.judged (p : Parcel) (w : Window) : Window := if w.verdict p.sequence = .taken then w.store p else w

/-- What a parcel does to a job outside ABORTING: the window, one counter, and the gap hold timer. -/
theorem Job.takeParcel_eq {j : Job} (h : j.phase ≠ .aborting) (p : Parcel) :
    j.takeParcel p = (Job.settleGapTimer { j with
      window := j.window.judged p, counters := j.counters.judged (j.window.verdict p.sequence) }, j.window.verdict p.sequence) := by
  unfold Job.takeParcel Window.judged JobCounters.judged
  generalize j.window.verdict p.sequence = v
  cases v <;> simp [Job.count, Verdict.counter, h]

/-- Storing a parcel keeps B, the history and the timer. -/
theorem Window.judged_spec (p : Parcel) (w : Window) :
    (w.judged p).base = w.base ∧ (w.judged p).history = w.history ∧ (w.judged p).gapTimer = w.gapTimer ∧
      (w.verdict p.sequence ≠ .taken → (w.judged p).slots = w.slots ∧ (w.judged p).readOffset = w.readOffset) := by
  unfold Window.judged
  split
  · next h => exact ⟨rfl, rfl, rfl, fun hne => absurd h hne⟩
  · exact ⟨rfl, rfl, rfl, fun _ => ⟨rfl, rfl⟩⟩

theorem Window.judged_taken {p : Parcel} {w : Window} (h : w.verdict p.sequence = .taken) : w.judged p = w.store p := if_pos h

/-- An accepted PARCEL in a state that takes it. -/
theorem State.Accepts.exec_parcel {s : State} {j : Job} {tag : Byte} {body : Bytes} (h : s.Accepts tag 0x20 body)
    (hj : s.job = some j) (hp : jobTest .parcel (some j.phase) = none) :
    let taken := j.takeParcel ⟨parcelSequence body, body.drop 2⟩
    exec (.parcel tag body) s = .next { s.answered tag 0x20 .ok
      (.parcel taken.2 taken.1.window.base taken.1.window.freeCount) with job := some taken.1 } := by
  rw [exec_request ⟨rfl, rfl⟩, h.request_eq]
  show Host.Outcome.next (State.parcel tag body (s.entered tag 0x20)).transmit = _
  unfold State.parcel
  rw [State.atJobState_taken _ ((s.entered_job tag 0x20).trans hj) hp]
  rfl

/-- Settles O15: a parcel that is taken is stored; one counter and the timer follow its verdict. -/
theorem parcelAnswered : Obligations.ParcelAnswered := by
  unfold Obligations.ParcelAnswered
  intro tag body s j haccepts hj htest
  have hp : j.phase ≠ .aborting := by
    intro hp
    rw [hp] at htest
    cases htest
  have hexec := haccepts.exec_parcel hj htest
  generalize parcelSequence body = n at hexec ⊢
  generalize body.drop 2 = payload at hexec ⊢
  obtain ⟨hbase, hhistory, htimer, hkept⟩ := Window.judged_spec ⟨n, payload⟩ j.window
  rw [Job.takeParcel_eq hp] at hexec
  let j' := Job.settleGapTimer { j with
    window := j.window.judged ⟨n, payload⟩, counters := j.counters.judged (j.window.verdict n) }
  have hcounters : j'.counters = j.counters.judged (j.window.verdict n) := rfl
  refine ⟨j', ?_, rfl, hbase, hhistory, fun hv => ⟨?_, ?_, ?_⟩, hkept, fun hv => ?_, fun hv => ?_, fun hv => ?_, fun hv => ?_, ?_⟩
  · rw [hexec, ← hbase]
    rfl
  · show (j.window.judged ⟨n, payload⟩).slots = _
    rw [Window.judged_taken hv]
    rfl
  · show (j.window.judged ⟨n, payload⟩).readOffset = _
    rw [Window.judged_taken hv]
    rfl
  · rw [hcounters, hv, JobCounters.judged_taken]
  · rw [hcounters, hv, JobCounters.judged_duplicate]
  · rw [hcounters, hv, JobCounters.judged_late]
  · rw [hcounters, hv, JobCounters.judged_stale]
  · rw [hcounters, hv, JobCounters.judged_ahead]
  · show (if j.phase.inRun && (j.window.judged ⟨n, payload⟩).gap then
      match (j.window.judged ⟨n, payload⟩).gapTimer with
        | .running ms => GapTimer.running ms
        | .idle => .running j.descriptor.gapHold
      else .idle) = _
    rw [htimer]
    cases j.window.gapTimer <;> simp <;> rfl

/-! ### The gap hold timer expires -/

/-- SD's part of a discontinuity before an open section is abandoned (R89, R92). -/
def Job.dropped (j : Job) : Job :=
  { j with
    ring := ⟨j.ring.head, j.ring.bytes.take (j.ring.bytes.length - j.decoder.record.uncommitted)⟩
    decoder := { j.decoder with position := .seeking, escape := .clear, waitingBytes := [], record := .nothing, context := none } }

/-- A discontinuity, by SD's fault mark and whether a section is open. -/
theorem Job.discontinuity_spec (j : Job) :
    (j.decoder.faultMark = true → j.discontinuity = j) ∧
      (j.decoder.faultMark = false →
        (j.decoder.sectionOpen = false → j.discontinuity = j.dropped) ∧
          (j.decoder.sectionOpen = true → j.discontinuity = (j.dropped.count .sectionsAbandoned 1).produce [.abandon])) := by
  unfold Job.discontinuity
  refine ⟨fun h => if_pos h, fun h => ⟨fun hopen => ?_, fun hopen => ?_⟩⟩
  · rw [h, hopen]
    rfl
  · rw [h, hopen]
    rfl

/-- Settles O16: an expiry skips to the lowest parcel held, counts the numbers lost, and is a discontinuity to SD. -/
theorem gapExpirySkips : Obligations.GapExpirySkips := by
  unfold Obligations.GapExpirySkips
  refine ⟨fun s j count hj htimer hlowest => ?_, fun w count => Window.lowestHeld_spec, fun j => ?_⟩
  · have hcan : j.gapCanExpire = true := by simp [Job.gapCanExpire, htimer, hlowest]
    have hexpire : j.expireGap =
        ⟨(({ j with window := j.window.skip count }).count .numbersLost count).discontinuity,
          [.gap j.descriptor.jobId j.window.base count (j.window.base + BitVec.ofNat 16 count)]⟩ := by
      unfold Job.expireGap
      rw [hlowest]
      cases hrunning : j.window.gapTimer with
      | idle => exact absurd hrunning htimer
      | running ms => rfl
    show Host.Outcome.next (s.atJobWhen Job.gapCanExpire Job.expireGap) = _
    rw [State.atJobWhen_of _ hj hcan, hexpire, Job.count_counters]
    rfl
  · obtain ⟨hmarked, hunmarked⟩ := j.discontinuity_spec
    refine ⟨hmarked, fun hmark hp => ?_⟩
    obtain ⟨hclosed, hopen⟩ := hunmarked hmark
    refine ⟨hclosed, fun h => ?_⟩
    rw [hopen h, Job.count_counters, if_neg (show j.dropped.phase ≠ .aborting from hp)]
    rfl

end Sys2Proof.Machine
end

section
/-! SD: the escape match, the byte taken, the processing of stream bytes, faults, orders and limits (R45 to R48, R66, R67, R80 to R94). -/

namespace Sys2Proof.Machine

/-! ### Stuffing -/

/-- What the encoder writes after an E7h that it has written: a 1Dh is followed by 00h. -/
def stuffedAfterE7 : Bytes → Bytes
  | [] => []
  | b :: rest => if b = 0x1D then b :: 0x00 :: stuffed rest else stuffed (b :: rest)

theorem stuffed_E7 (bytes : Bytes) : stuffed (0xE7 :: bytes) = 0xE7 :: stuffedAfterE7 bytes := by
  cases bytes with
  | nil => rfl
  | cons b rest =>
    simp only [stuffed, stuffedAfterE7, true_and]
    split
    · rfl
    · rfl

theorem stuffed_ne {a : Byte} (h : a ≠ 0xE7) (bytes : Bytes) : stuffed (a :: bytes) = a :: stuffed bytes := by
  cases bytes with
  | nil => rfl
  | cons b rest => simp only [stuffed, h, false_and, if_false]

/-- A byte delivered by the match, and what follows it. -/
theorem Escape.feed_cons {e e' : Escape} {b : Byte} {delivered : Bytes} (h : e.step b = .deliver e' delivered) (bytes : Bytes) :
    e.feed (b :: bytes) = (e'.feed bytes).map (fun r => (r.1, delivered ++ r.2)) := by
  rw [Escape.feed, h]

/-- A run of bytes is taken when it meets no marker and no violation, and comes to all of the bytes but those still held. -/
def Escape.Takes (e : Escape) (written bytes : Bytes) : Prop :=
  ∃ e' delivered, e.feed written = some (e', delivered) ∧ delivered ++ e'.holds = bytes

theorem Escape.Takes.cons {e e' : Escape} {b : Byte} {delivered written bytes : Bytes} (hs : e.step b = .deliver e' delivered)
    (h : e'.Takes written bytes) : e.Takes (b :: written) (delivered ++ bytes) := by
  obtain ⟨e'', more, hfeed, rfl⟩ := h
  refine ⟨e'', delivered ++ more, ?_, by rw [List.append_assoc]⟩
  rw [Escape.feed_cons hs, hfeed]
  rfl

theorem Escape.step_clear_E7 : Escape.clear.step 0xE7 = .deliver .seenE7 [] := rfl

theorem Escape.step_clear_ne {b : Byte} (h : b ≠ 0xE7) : Escape.clear.step b = .deliver .clear [b] := if_neg h

theorem Escape.step_seenE7_ne {b : Byte} (h1 : b ≠ 0x1D) (h2 : b ≠ 0xE7) : Escape.seenE7.step b = .deliver .clear [0xE7, b] := by
  simp only [Escape.step, h1, h2, if_false]

/-- What the encoder writes is taken, from the clear state and after an E7h. -/
theorem stuffed_takes (bytes : Bytes) :
    Escape.clear.Takes (stuffed bytes) bytes ∧ Escape.seenE7.Takes (stuffedAfterE7 bytes) (0xE7 :: bytes) := by
  induction bytes with
  | nil => exact ⟨⟨.clear, [], rfl, rfl⟩, ⟨.seenE7, [], rfl, rfl⟩⟩
  | cons b rest ih =>
    obtain ⟨hclear, hseen⟩ := ih
    by_cases hE7 : b = 0xE7
    · subst hE7
      rw [stuffedAfterE7, if_neg (by decide), stuffed_E7]
      exact ⟨hseen.cons Escape.step_clear_E7, hseen.cons (b := 0xE7) (delivered := [0xE7]) rfl⟩
    · rw [stuffedAfterE7, stuffed_ne hE7]
      refine ⟨hclear.cons (Escape.step_clear_ne hE7), ?_⟩
      split
      · next h1D =>
        subst h1D
        exact (hclear.cons (e := .seenE71D) (b := 0x00) rfl).cons (e := .seenE7) (delivered := []) rfl
      · next h1D => exact hclear.cons (Escape.step_seenE7_ne h1D hE7)

/-- Settles O17: the table is the step function's own, and stuffed bytes are taken by induction on what the encoder writes. -/
theorem escapeTableOfR46 : Obligations.EscapeTableOfR46 := by
  unfold Obligations.EscapeTableOfR46
  exact ⟨fun b => ⟨rfl, rfl, rfl, rfl⟩, fun bytes => (stuffed_takes bytes).1⟩

/-! ### Fault reports (R140 to R142) -/

/-- The first fault of a run makes the record. -/
theorem Job.reportFault_inRun {j : Job} (h : j.phase.inRun = true) (r : FaultRecord) :
    j.reportFault r = { j with
      phase := .quiescing
      faultRecord := some r
      decoderQuiet := false
      signals := { j.signals with halt := true, quiescing := true } } := by
  unfold Job.reportFault
  cases hp : j.phase with
  | running | stopping => rfl
  | ready | quiescing | faulted | servicing | closing | closed | aborting =>
    rw [hp] at h
    cases h

/-- In QUIESCING a report is a secondary fault. -/
theorem Job.reportFault_quiescing {j : Job} (h : j.phase = .quiescing) (r : FaultRecord) :
    j.reportFault r = { j with faultRecord := j.faultRecord.map FaultRecord.countSecondary } := by
  unfold Job.reportFault
  rw [h]

/-- In every other job state a report is discarded. -/
theorem Job.reportFault_discarded {j : Job} (h1 : j.phase.inRun = false) (h2 : j.phase ≠ .quiescing) (r : FaultRecord) :
    j.reportFault r = j := by
  unfold Job.reportFault
  cases hp : j.phase with
  | running | stopping =>
    rw [hp] at h1
    cases h1
  | quiescing => exact absurd hp h2
  | ready | faulted | servicing | closing | closed | aborting => rfl

/-- SD at a fault, before JC takes the report (R90). -/
def Job.decoderFaulted (j : Job) : Job :=
  { j with
    ring := ⟨j.ring.head, j.ring.bytes.take (j.ring.bytes.length - j.decoder.record.uncommitted)⟩
    decoder := { j.decoder with running := false, faultMark := true, escape := .clear, waitingBytes := [], record := .nothing } }

theorem Job.decoderFault_eq (code : FaultCode) (number : Option Word16) (block : Option Nat) (place : StreamPlace) (j : Job) :
    j.decoderFault code number block place = j.decoderFaulted.reportFault ⟨code, number, block, some place, 0⟩ := rfl

/-- RU at a fault, before JC takes the report (R116). -/
def Job.unitFaulted (j : Job) : Job :=
  { j with unit := { j.unit with activity := .halted, block := none, waiting := none } }

theorem Job.unitFault_eq (code : FaultCode) (number : Option Word16) (b : Nat) (j : Job) :
    j.unitFault code number b = j.unitFaulted.reportFault ⟨code, number, some b, none, 0⟩ := rfl

/-- Settles O19: what SD or RU leaves at a fault, and JC's taking of the report in the states of a run, in QUIESCING and elsewhere. -/
theorem decoderFaultStops : Obligations.DecoderFaultStops := by
  unfold Obligations.DecoderFaultStops
  refine ⟨fun j r hp => Job.reportFault_inRun hp r, fun j code number b hp => ?_, fun j code number block place hp => ?_,
    fun j code number block place r hp hr => ?_, fun j code number b r hp hr => ?_,
    fun j r h1 h2 => Job.reportFault_discarded h1 h2 r⟩
  · rw [Job.unitFault_eq, Job.reportFault_inRun (j := j.unitFaulted) hp]
    rfl
  · rw [Job.decoderFault_eq, Job.reportFault_inRun (j := j.decoderFaulted) hp]
    rfl
  · rw [Job.decoderFault_eq, Job.reportFault_quiescing (j := j.decoderFaulted) hp, show j.decoderFaulted.faultRecord = some r from hr]
    rfl
  · rw [Job.unitFault_eq, Job.reportFault_quiescing (j := j.unitFaulted) hp, show j.unitFaulted.faultRecord = some r from hr]
    rfl

/-! ### The byte taken -/

/-- PW offers the byte of the parcel held for B at the read offset. -/
theorem Window.takeByte_eq {w : Window} {p : Parcel} {b : Byte} (hp : w.held? w.base = some p) (hb : p.payload[w.readOffset]? = some b) :
    w.takeByte = some (⟨b, ⟨w.base, w.readOffset⟩⟩,
      if w.readOffset + 1 < p.payload.length then { w with readOffset := w.readOffset + 1 } else w.consume) := by
  unfold Window.takeByte
  rw [hp]
  dsimp only
  rw [hb]

/-- SD takes a byte when it runs, nothing waits at it and a parcel is held for B. -/
theorem Job.canTakeByte_of {j : Job} {p : Parcel} (hrun : j.decoder.running = true) (h1 : j.decoder.waitingOutput = [])
    (h2 : j.decoder.waitingBytes = []) (hp : j.window.held? j.window.base = some p) : j.canTakeByte = true := by
  simp [Job.canTakeByte, hrun, h1, h2, hp]

/-- A byte processed while nothing waits at a running SD without fault mark. -/
theorem Job.processBytes_running {j : Job} (b : StreamByte) (rest : List StreamByte) (hmark : j.decoder.faultMark = false)
    (hrun : j.decoder.running = true) (hout : j.decoder.waitingOutput = []) :
    Job.processBytes (b :: rest) j = match j.processByte b with
      | some j' => Job.processBytes rest j'
      | none => j.waitBytes (b :: rest) := by
  rw [Job.processBytes]
  exact (if_neg (by simp [hmark])).trans (if_pos (by simp [hrun, hout]))

/-- A byte that SD cannot process now waits with those behind it. -/
theorem Job.processBytes_waits {j : Job} (b : StreamByte) (rest : List StreamByte) (hmark : j.decoder.faultMark = false)
    (h : j.decoder.running = false ∨ j.decoder.waitingOutput ≠ []) : Job.processBytes (b :: rest) j = j.waitBytes (b :: rest) := by
  rcases h with h | h
  · simp [Job.processBytes, hmark, h]
  · simp [Job.processBytes, hmark, h]

/-- With the fault mark set the bytes are dropped. -/
theorem Job.processBytes_marked {j : Job} (bs : List StreamByte) (hmark : j.decoder.faultMark = true) :
    Job.processBytes bs j = j.waitBytes [] := by
  cases bs with
  | nil => rfl
  | cons b rest => simp [Job.processBytes, hmark]

/-- After a fault nothing more is processed. -/
theorem Job.processBytes_decoderFault (bs : List StreamByte) (code : FaultCode) (number : Option Word16) (block : Option Nat)
    (place : StreamPlace) (j : Job) :
    Job.processBytes bs (j.decoderFault code number block place) = j.decoderFault code number block place := by
  have hdecoder : (j.decoderFault code number block place).decoder = j.decoderFaulted.decoder := by
    obtain ⟨phase, faultRecord, quiet, halt, quiescing, he, _⟩ :=
      Job.reportFault_frame ⟨code, number, block, some place, 0⟩ j.decoderFaulted
    rw [Job.decoderFault_eq, he]
  generalize j.decoderFault code number block place = j' at hdecoder ⊢
  have hmark : j'.decoder.faultMark = true := by rw [hdecoder]; rfl
  rw [Job.processBytes_marked bs hmark]
  have hnone : { j'.decoder with waitingBytes := [] } = j'.decoder := by rw [hdecoder]; rfl
  show { j' with decoder := { j'.decoder with waitingBytes := [] } } = j'
  rw [hnone]

/-- The section number that SD reports with a fault (R91). -/
theorem Decoder.faultSection_eq (d : Decoder) :
    d.faultSection = if d.position = .seeking ∨ d.position = .endBody ∨ d.position = .header then none
      else d.context.map (fun c => c.number) := by
  unfold Decoder.faultSection
  cases d.position <;> rfl

/-- The target block that SD reports with a fault (R91). -/
theorem Decoder.faultBlock_eq (d : Decoder) :
    d.faultBlock = match d.record with
      | .directive p => if d.position = .directive then p.block? else none
      | .nothing | .bytes _ => none := by
  unfold Decoder.faultBlock
  cases d.position <;> cases d.record <;> rfl

/-- A valid marker opens its record while seeking or where one is expected. -/
theorem Decoder.marker_opens {d : Decoder} (h : d.position = .seeking ∨ d.position = .markerExpected) (o : Bool) :
    d.marker o = some { d with position := if o then .header else .endBody, record := .bytes [] } := by
  unfold Decoder.marker
  rcases h with h | h
  · rw [h]
  · rw [h]

theorem Decoder.marker_unexpected {d : Decoder} (h1 : d.position ≠ .seeking) (h2 : d.position ≠ .markerExpected) (o : Bool) :
    d.marker o = none := by
  unfold Decoder.marker
  cases hp : d.position with
  | seeking => exact absurd hp h1
  | markerExpected => exact absurd hp h2
  | endBody | header | lead | directive | trailer => rfl

/-- SD with its escape state cleared by a kind byte. -/
def Job.cleared (j : Job) : Job := { j with decoder := { j.decoder with escape := .clear } }

/-- A kind byte that the match takes. -/
theorem Job.matchByte_kindByte {j : Job} (h : j.decoder.escape = .seenMarkerStart) (b : StreamByte) :
    j.matchByte b =
      if b.value = 0x51 ∨ b.value = 0x5E then
        match j.cleared.decoder.marker (decide (b.value = 0x51)) with
        | some d => { j.cleared with decoder := d }
        | none => j.cleared.decoderFault .unexpectedMarker j.decoder.faultSection j.decoder.faultBlock b.place
      else if j.decoder.position = .seeking then
        { j with decoder := { j.decoder with escape := if b.value = 0xE7 then .seenE7 else .clear } }
      else j.cleared.decoderFault .badMarker j.decoder.faultSection j.decoder.faultBlock b.place := by
  have hstep : j.decoder.escape.step b.value = .kindByte b.value := by rw [h]; rfl
  unfold Job.matchByte
  rw [hstep]
  rfl

/-- A byte that violates the escape rule. -/
theorem Job.matchByte_violation {j : Job} {b : StreamByte} (h : j.decoder.escape.step b.value = .violation) :
    j.matchByte b =
      if j.decoder.position = .seeking then
        { j with decoder := { j.decoder with escape := if b.value = 0xE7 then .seenE7 else .clear } }
      else j.decoderFault .badEscape j.decoder.faultSection j.decoder.faultBlock b.place := by
  unfold Job.matchByte
  rw [h]
  rfl

/-! ### Items produced -/

/-- Items produced join the output that waits, which is pushed as far as there are places (R85). -/
theorem Job.produce_eq (items : List Item) (j : Job) :
    j.produce items =
      (let output := j.decoder.waitingOutput ++ items
       let pushed := output.take (16 - j.queue.length)
       { j with
        queue := j.queue ++ pushed
        decoder := { j.decoder with
          waitingOutput := output.drop (16 - j.queue.length)
          blocksCovered := j.decoder.blocksCovered + (pushed.map Item.covers).sum
          sectionsCompleted := j.decoder.sectionsCompleted + (pushed.map Item.completes).sum } }) := rfl

/-- The same, with what an item adds to the run counts written out. -/
theorem Job.produce_of {covered ended : Item → Nat} (hcovers : covered = Item.covers) (hcompletes : ended = Item.completes)
    (items : List Item) (j : Job) :
    j.produce items =
      (let output := j.decoder.waitingOutput ++ items
       let pushed := output.take (16 - j.queue.length)
       { j with
        queue := j.queue ++ pushed
        decoder := { j.decoder with
          waitingOutput := output.drop (16 - j.queue.length)
          blocksCovered := j.decoder.blocksCovered + (pushed.map covered).sum
          sectionsCompleted := j.decoder.sectionsCompleted + (pushed.map ended).sum } }) := by
  subst hcovers hcompletes
  exact Job.produce_eq items j

theorem Job.produce_nil (j : Job) : j.produce [] = j.flushOutput := by
  rw [Job.produce_eq, List.append_nil]
  rfl

/-- SD goes on: what waits is pushed, the limit tested when something waited, and the waiting bytes processed (R80, R85, R86). -/
theorem Job.wakeDecoder_eq (j : Job) :
    j.wakeDecoder =
      (let tested := if j.decoder.waitingOutput = [] then j.produce []
        else Job.testLimit (j.decoder.waitingOutput.any Item.isImageEnd) (j.produce [])
       Job.processBytes tested.decoder.waitingBytes tested) := by
  rw [Job.produce_nil]
  unfold Job.wakeDecoder
  simp only [List.isEmpty_iff]

/-- Settles O18: the byte offered, the match by its outcome, the bytes delivered one by one, and the items produced. -/
theorem sdTakesByte : Obligations.SdTakesByte := by
  unfold Obligations.SdTakesByte
  refine ⟨fun s j p b hj hrun h1 h2 hp hb => ?_, fun j b => ?_, fun j b rest hmark => ?_, fun j => rfl, fun j items => ⟨?_, ?_⟩⟩
  · have hcan := Job.canTakeByte_of hrun h1 h2 hp
    have htake : j.takeByte = Job.matchByte ⟨b, ⟨j.window.base, j.window.readOffset⟩⟩ { j with window :=
        if j.window.readOffset + 1 < p.payload.length then { j.window with readOffset := j.window.readOffset + 1 }
        else j.window.consume } := by
      unfold Job.takeByte
      rw [if_pos hcan, Window.takeByte_eq hp hb]
    show Host.Outcome.next (s.atJobWhen Job.canTakeByte (quietly Job.takeByte)) = _
    rw [State.atJobWhen_of _ hj hcan, quietly, htake]
    rfl
  · intro d cleared number block
    have hnumber : number = d.faultSection := d.faultSection_eq.symm
    have hblock : block = d.faultBlock := d.faultBlock_eq.symm
    rw [hnumber, hblock]
    refine ⟨fun e bytes h => ?_, fun h hkind => ⟨fun hp => ?_, fun hp1 hp2 => ?_⟩, fun h hk1 hk2 => ⟨fun hp => ?_, fun hp => ?_⟩,
      fun h => ⟨fun hp => ?_, fun hp => ?_⟩⟩
    · unfold Job.matchByte
      rw [h]
      rfl
    · rw [Job.matchByte_kindByte h, if_pos hkind, Decoder.marker_opens (d := j.cleared.decoder) hp]
      simp only [decide_eq_true_eq]
      rfl
    · rw [Job.matchByte_kindByte h, if_pos hkind, Decoder.marker_unexpected (d := j.cleared.decoder) hp1 hp2]
      rfl
    · rw [Job.matchByte_kindByte h, if_neg (not_or.mpr ⟨hk1, hk2⟩), if_pos hp]
    · rw [Job.matchByte_kindByte h, if_neg (not_or.mpr ⟨hk1, hk2⟩), if_neg hp]
      rfl
    · rw [Job.matchByte_violation h, if_pos hp]
    · rw [Job.matchByte_violation h, if_neg hp]
  · refine ⟨fun h => Job.processBytes_waits b rest hmark h, fun hrun hout => ⟨fun h => ?_, fun code number block h => ?_, fun d ring items h => ?_⟩⟩
    · rw [Job.processBytes_running b rest hmark hrun hout, Job.processByte, h]
      rfl
    · rw [Job.processBytes_running b rest hmark hrun hout, Job.processByte, h]
      exact Job.processBytes_decoderFault rest code number block b.place j
    · rw [Job.processBytes_running b rest hmark hrun hout, Job.processByte, h]
  · exact Job.produce_of (by funext i; cases i <;> rfl) (by funext i; cases i <;> rfl) items j
  · exact j.wakeDecoder_eq

/-! ### Orders of JC -/

/-- A suspension stops a running SD, which reports it (R87). -/
theorem Job.suspendDecoder_eq (j : Job) :
    j.suspendDecoder =
      if j.decoder.running then
        Job.reportStop .pause { j with
          signals := { j.signals with suspend := false }, decoder := { j.decoder with running := false } }
      else { j with signals := { j.signals with suspend := false } } := rfl

/-- Settles O20: each order is taken at the job, and a suspension of a running SD is reported. -/
theorem sdTakesOrders : Obligations.SdTakesOrders := by
  unfold Obligations.SdTakesOrders
  intro s j hj
  have hsuspend (h : j.signals.suspend = true) : exec .sdSuspend s = .next (s.closeEvent (quietly Job.suspendDecoder j)) :=
    congrArg Host.Outcome.next (State.atJobWhen_of (p := fun j => j.signals.suspend) _ hj h)
  refine ⟨fun h hp => ?_, fun h hp hrun => ?_, fun h hp hrun => ?_, fun h => ?_, fun h => ?_⟩
  · rw [hsuspend h, quietly, Job.suspendDecoder_eq]
    refine congrArg (fun j => Host.Outcome.next (s.closeEvent ⟨j, []⟩)) ?_
    split
    · exact if_neg hp
    · next hstopped =>
      have hd : { j.decoder with running := false } = j.decoder := by
        cases hd : j.decoder
        simp_all
      rw [hd]
  · rw [hsuspend h, quietly, Job.suspendDecoder_eq, if_neg (by simp [hrun])]
  · rw [hsuspend h, quietly, Job.suspendDecoder_eq, if_pos hrun]
    exact congrArg (fun j => Host.Outcome.next (s.closeEvent ⟨j, []⟩)) (if_pos hp)
  · exact congrArg Host.Outcome.next (State.atJobWhen_of (p := fun j => j.signals.halt) _ hj h)
  · exact congrArg Host.Outcome.next (State.atJobWhen_of (p := fun j => j.signals.decoderStop) _ hj h)

/-! ### Limits -/

/-- A running SD whose output is all pushed stops after an IMAGE_END, and else when its limit is reached (R86). -/
theorem Job.testLimit_pushed {j : Job} (hrun : j.decoder.running = true) (hout : j.decoder.waitingOutput = []) (ended : Bool) :
    j.testLimit ended = if ended then j.stopDecoder.reportStop .endOfImage
      else if j.decoder.limitReached then j.stopDecoder.reportStop .limit else j := by
  unfold Job.testLimit
  exact if_pos (by simp [hrun, hout])

/-- When a limit is reached (R86). -/
theorem Decoder.limitReached_iff {d : Decoder} : d.limitReached = true ↔
    (∃ n, d.limit = some (.blocks n) ∧ n ≤ d.blocksCovered) ∨ ∃ n, d.limit = some (.sections n) ∧ n ≤ d.sectionsCompleted := by
  unfold Decoder.limitReached
  split
  all_goals next h => simp [h]

/-- A SD that is stopped or has output waiting does not test its limit. -/
theorem Job.testLimit_waiting {j : Job} (h : j.decoder.running = false ∨ j.decoder.waitingOutput ≠ []) (ended : Bool) :
    j.testLimit ended = j := by
  unfold Job.testLimit
  refine if_neg ?_
  rcases h with h | h
  · simp [h]
  · simp [h]

/-- A SD that has not reached its limit goes on. -/
theorem Job.testLimit_below {j : Job} (h : j.decoder.limitReached = false) : j.testLimit false = j := by
  unfold Job.testLimit
  split
  · simp [h]
  · rfl

/-- Settles O21: the test of the limit by what has ended and whether the limit is reached, and JC's taking of the report. -/
theorem sdStopsAtLimit : Obligations.SdStopsAtLimit := by
  unfold Obligations.SdStopsAtLimit
  refine ⟨fun j ended hp hrun hout => ⟨fun h => ?_, fun h n hn => ?_⟩, fun j ended hp hrun hout h => ?_, fun j =>
    ⟨fun n h hlt => ?_, fun n h hlt => ?_, fun h => ?_, fun ended h => Job.testLimit_waiting h ended⟩⟩
  · rw [Job.testLimit_pushed hrun hout, if_pos h]
    exact if_pos hp
  · have hreached : j.decoder.limitReached = true :=
      Decoder.limitReached_iff.mpr (hn.imp (fun hn => ⟨n, hn⟩) fun hn => ⟨n, hn⟩)
    rw [Job.testLimit_pushed hrun hout, h, if_neg Bool.false_ne_true, if_pos hreached]
    exact if_pos hp
  · rw [Job.testLimit_pushed hrun hout]
    by_cases hended : ended = true
    · rw [if_pos hended]
      exact if_neg hp
    · rw [if_neg hended, if_pos (Decoder.limitReached_iff.mpr (h.resolve_left hended))]
      exact if_neg hp
  · exact Job.testLimit_below (by simp [Decoder.limitReached, h, hlt])
  · exact Job.testLimit_below (by simp [Decoder.limitReached, h, hlt])
  · exact Job.testLimit_below (by simp [Decoder.limitReached, h])

end Sys2Proof.Machine
end

section
/-! SD's grammar: each stream byte by the point at which SD stands (R48 to R57, R79, R83, R84, R91). -/

namespace Sys2Proof.Machine

/-! ### Fields of a record -/

/-- A field that takes the whole of a short record. -/
theorem field_whole {bytes : Bytes} {size : Nat} (h : bytes.length ≤ size) : field bytes 0 size = fromLe bytes := by
  rw [field, List.drop_zero, List.take_of_length_le h]

/-- The last byte of a record as a field. -/
theorem field_last {held : Bytes} {n : Nat} (h : held.length = n) (b : Byte) : field (held ++ [b]) n 1 = b.toNat := by
  subst h
  rw [field, List.drop_left]
  show b.toNat + 256 * 0 = b.toNat
  omega

/-- The displacement of COPY_NEW: a two-byte field as a signed number (R189). -/
theorem signed16_eq {n : Nat} (h : n < 65536) : signed16 n = if n < 32768 then (n : Int) else (n : Int) - 65536 := by
  rw [signed16, Nat.mod_eq_of_lt h]

/-! ### Seeking, markers, headers, ends and trailers -/

theorem Decoder.parse_seeking {d : Decoder} (h : d.position = .seeking) (length width : Nat) (ring : Ring) (b : Byte) :
    d.parse length width ring b = .done d ring [] := by
  rw [Decoder.parse, h]

theorem Decoder.parse_markerExpected {d : Decoder} (h : d.position = .markerExpected) (length width : Nat) (ring : Ring) (b : Byte) :
    d.parse length width ring b = .fault .expectedMarker (d.context.map (fun c => c.number)) none := by
  rw [Decoder.parse, h]
  dsimp only
  rw [Decoder.faultSection, h]

/-- A byte of a header: kept until the seventh, which decides it. -/
theorem Decoder.parse_header {d : Decoder} {held : Bytes} (h : d.position = .header) (hr : d.record = .bytes held) (length width : Nat)
    (ring : Ring) (b : Byte) :
    d.parse length width ring b =
      if held.length < 6 then .done { d with record := .bytes (held ++ [b]) } ring [] else d.headerDone length width (held ++ [b]) ring := by
  rw [Decoder.parse, h, hr]
  simp only [PartialRecord.got, List.length_append, List.length_singleton, Nat.succ_lt_succ_iff]

/-- A byte of an end record: kept until the seventh, which decides it. -/
theorem Decoder.parse_endBody {d : Decoder} {held : Bytes} (h : d.position = .endBody) (hr : d.record = .bytes held) (length width : Nat)
    (ring : Ring) (b : Byte) :
    d.parse length width ring b =
      if held.length < 6 then .done { d with record := .bytes (held ++ [b]) } ring [] else d.endBodyDone length (held ++ [b]) ring := by
  rw [Decoder.parse, h, hr]
  simp only [PartialRecord.got, List.length_append, List.length_singleton, Nat.succ_lt_succ_iff]

/-- The first three bytes of a trailer are kept. -/
theorem Decoder.parse_trailer_short {d : Decoder} {held : Bytes} (h : d.position = .trailer) (hr : d.record = .bytes held)
    (hl : held.length < 3) (length width : Nat) (ring : Ring) (b : Byte) :
    d.parse length width ring b = .done { d with record := .bytes (held ++ [b]) } ring [] := by
  rw [Decoder.parse, h, hr]
  exact if_pos (by simp only [PartialRecord.got, List.length_append, List.length_singleton]; omega)

/-- The fourth byte of a trailer ends the section with its digest (R56). -/
theorem Decoder.parse_trailer_last {d : Decoder} {held : Bytes} {c : SectionContext} (h : d.position = .trailer)
    (hr : d.record = .bytes held) (hl : held.length = 3) (hc : d.context = some c) (length width : Nat) (ring : Ring) (b : Byte) :
    d.parse length width ring b = .done { d with
      position := .markerExpected, record := .nothing, context := some { c with endPushed := true } } ring
      [.sectionEnd c.number c.start c.count (some (BitVec.ofNat 32 (field (held ++ [b]) 0 4)))] := by
  have hgot : (held ++ [b]).length = 4 := by simp [hl]
  rw [field_whole (Nat.le_of_eq hgot), Decoder.parse, h, hr, hc]
  exact if_neg (by simp only [PartialRecord.got, hgot]; decide)

/-- The sum of a header's or an end record's check, as R49 and R57 give it. -/
theorem checkSumOk_false {kind : Byte} {bytes : Bytes} :
    checkSumOk kind bytes = false ↔ (kind.toNat + (bytes.map BitVec.toNat).sum) % 256 ≠ 0 := by
  rw [checkSumOk_eq, decide_eq_false_iff_not]

/-- A complete header, by its check and then by its range (R49, R50). -/
theorem Decoder.headerDone_spec (length width : Nat) (got : Bytes) (ring : Ring) (d : Decoder) :
    let number : Word16 := BitVec.ofNat 16 (field got 0 2)
    let start := field got 2 2
    let count := field got 4 1
    ((0x51 + (got.map BitVec.toNat).sum) % 256 ≠ 0 ∨ 1 < field got 5 1 →
      d.headerDone length width got ring = .fault .badHeader (some number) none) ∧
    ((0x51 + (got.map BitVec.toNat).sum) % 256 = 0 → field got 5 1 ≤ 1 →
      d.headerDone length width got ring = if 1 ≤ count ∧ start + count ≤ length ∧ start % width + count ≤ width then
        .done { d with
          position := .lead
          record := .nothing
          context := some ⟨number, start, count, decide (field got 5 1 = 1), none, true, false⟩ } ring [.sectionBegin start]
      else .fault .sectionRange (some number) none) := by
  dsimp only
  have hsum : checkSumOk 0x51 got = false ↔ (0x51 + (got.map BitVec.toNat).sum) % 256 ≠ 0 := checkSumOk_false
  unfold Decoder.headerDone
  refine ⟨fun h => ?_, fun h1 h2 => ?_⟩
  · exact if_pos (h.imp hsum.mpr id)
  · dsimp only
    rw [if_neg (fun h => h.elim (fun h => hsum.mp h h1) (Nat.not_lt.mpr h2))]
    by_cases hrange : 1 ≤ field got 4 1 ∧ field got 2 2 + field got 4 1 ≤ length ∧ field got 2 2 % width + field got 4 1 ≤ width
    · rw [if_pos hrange, if_neg (by omega)]
    · rw [if_neg hrange, if_pos (by omega)]

/-- A complete end record, by its check and then by the length (R57). -/
theorem Decoder.endBodyDone_spec (length : Nat) (got : Bytes) (ring : Ring) (d : Decoder) :
    ((0x5E + (got.map BitVec.toNat).sum) % 256 ≠ 0 → d.endBodyDone length got ring = .fault .badHeader none none) ∧
    ((0x5E + (got.map BitVec.toNat).sum) % 256 = 0 →
      d.endBodyDone length got ring = if field got 0 2 = length then
        .done { d with position := .seeking, record := .nothing } ring [.imageEnd (BitVec.ofNat 32 (field got 2 4))]
      else .fault .endMismatch none none) := by
  have hsum : checkSumOk 0x5E got = false ↔ (0x5E + (got.map BitVec.toNat).sum) % 256 ≠ 0 := checkSumOk_false
  unfold Decoder.endBodyDone
  refine ⟨fun h => if_pos (hsum.mpr h), fun h => ?_⟩
  rw [if_neg (fun hbad => hsum.mp hbad h)]
  by_cases hlength : field got 0 2 = length
  · rw [if_pos hlength, if_neg (not_not.mpr hlength)]
  · rw [if_neg hlength, if_pos hlength]

/-! ### Lead bytes -/

/-- The kind of a lead byte's code. -/
def leadKind (code : Nat) : DirectiveKind :=
  if code = 0 then .copyKeep else if code = 1 then .copyNew else if code = 2 then .self else if code = 3 then .literal else .fill

theorem DirectiveKind.ofCode_eq (code : Nat) :
    DirectiveKind.ofCode code = if 5 ≤ code then none else some (leadKind code) := by
  unfold DirectiveKind.ofCode leadKind
  by_cases h : 5 ≤ code
  · rw [if_pos h]
    simp only [show code ≠ 0 by omega, show code ≠ 1 by omega, show code ≠ 2 by omega, show code ≠ 3 by omega, show code ≠ 4 by omega,
      if_false]
  · rw [if_neg h]
    interval_cases code <;> rfl

theorem leadKind_editable {code : Nat} (h : code < 5) : (leadKind code).editable = decide (code < 3) := by
  interval_cases code <;> rfl

/-- A lead byte (R51, R189). -/
theorem Decoder.parse_lead {d : Decoder} (h : d.position = .lead) (length width : Nat) (ring : Ring) (b : Byte) :
    d.parse length width ring b =
      if 5 ≤ b.toNat / 32 ∨ (3 ≤ b.toNat / 32 ∧ b.toNat % 32 ≠ 0) then
        .fault .badDirective (d.context.map (fun c => c.number)) none
      else .done { d with
        position := .directive
        record := .directive ⟨leadKind (b.toNat / 32), b.toNat % 32, 0, none, .copyKeep, 0, [], 0, .increment⟩ } ring [] := by
  have hsection : d.faultSection = d.context.map (fun c => c.number) := by rw [Decoder.faultSection, h]
  rw [Decoder.parse, h]
  dsimp only
  rw [Decoder.leadByte, DirectiveKind.ofCode_eq, hsection]
  by_cases hcode : 5 ≤ b.toNat / 32
  · rw [if_pos hcode, if_pos (Or.inl hcode)]
  · rw [if_neg hcode]
    dsimp only
    rw [leadKind_editable (by omega)]
    by_cases hedits : 3 ≤ b.toNat / 32 ∧ b.toNat % 32 ≠ 0
    · rw [if_pos (Or.inr hedits), if_pos ⟨by simpa using hedits.1, hedits.2⟩]
    · rw [if_neg (not_or.mpr ⟨hcode, hedits⟩), if_neg (fun h => hedits ⟨by simpa using h.1, h.2⟩)]

/-! ### Directives -/

theorem Decoder.parse_directive {d : Decoder} {c : SectionContext} {p : PartialDirective} (h : d.position = .directive)
    (hc : d.context = some c) (hr : d.record = .directive p) (length width : Nat) (ring : Ring) (b : Byte) :
    d.parse length width ring b = d.directiveByte c p b ring := by
  rw [Decoder.parse, h, hc, hr]

/-- The block that an increment places (R52). -/
def SectionContext.placed (c : SectionContext) (increment : Nat) : Nat :=
  match c.lastPlaced with
  | some l => l + increment
  | none => c.start + increment - 1

/-- The increment byte: its bounds, the section's end, and what follows by the kind (R51, R52). -/
theorem Decoder.incrementByte_spec (c : SectionContext) (p : PartialDirective) (b : Byte) (ring : Ring) (d : Decoder) :
    let own := c.placed b.toNat
    let c' : SectionContext := { c with lastPlaced := some own }
    let placed : PartialDirective := { p with increment := b.toNat, block? := some own }
    let d' : Decoder := { d with context := some c' }
    (b.toNat = 0 ∨ 16 < b.toNat → d.incrementByte c p b ring = .fault .badIncrement (some c.number) none) ∧
    (1 ≤ b.toNat → b.toNat ≤ 16 → c.start + c.count ≤ own →
      d.incrementByte c p b ring = .fault .blockOverrun (some c.number) (some own)) ∧
    (1 ≤ b.toNat → b.toNat ≤ 16 → own < c.start + c.count →
      (p.kind = .copyKeep → d.incrementByte c p b ring = d'.nextEdit c' placed ring) ∧
      (p.kind = .copyNew ∨ p.kind = .self ∨ p.kind = .fill →
        d.incrementByte c p b ring = .done { d' with record := .directive { placed with stage := .operand [] } } ring []) ∧
      (p.kind = .literal →
        d.incrementByte c p b ring = .done { d' with record := .directive { placed with stage := .literal ring.tailPlace 0 } } ring [])) := by
  intro own c' placed d'
  have hinside (h1 : 1 ≤ b.toNat) (h2 : b.toNat ≤ 16) : d.incrementByte c p b ring =
      if c.start + c.count ≤ own then .fault .blockOverrun (some c.number) (some own)
      else match p.kind with
        | .copyKeep => d'.nextEdit c' placed ring
        | .copyNew | .self | .fill => .done { d' with record := .directive { placed with stage := .operand [] } } ring []
        | .literal => .done { d' with record := .directive { placed with stage := .literal ring.tailPlace 0 } } ring [] :=
    if_neg (by omega)
  refine ⟨fun h => if_pos (by omega), fun h1 h2 h3 => ?_, fun h1 h2 h3 => ⟨fun hk => ?_, fun hk => ?_, fun hk => ?_⟩⟩
  all_goals rw [hinside h1 h2]
  · rw [if_pos h3]
  · rw [if_neg (Nat.not_le.mpr h3), hk]
  · rw [if_neg (Nat.not_le.mpr h3)]
    rcases hk with hk | hk | hk
    · rw [hk]
    · rw [hk]
    · rw [hk]
  · rw [if_neg (Nat.not_le.mpr h3), hk]

/-- A byte of an operand: the first of two is kept; the last is tested by the kind (R51, R189). -/
theorem Decoder.operandByte_spec (c : SectionContext) (p : PartialDirective) (held : Bytes) (b : Byte) (ring : Ring) (d : Decoder) :
    let raw := field (held ++ [b]) 0 2
    let displacement : Int := if raw < 32768 then (raw : Int) else (raw : Int) - 65536
    let bad : ParseOutcome := .fault .badDirective (some c.number) p.block?
    (p.kind = .copyNew ∨ p.kind = .self → held = [] →
      d.operandByte c p (held ++ [b]) ring = .done { d with record := .directive { p with stage := .operand [b] } } ring []) ∧
    (p.kind = .copyNew → held.length = 1 →
      d.operandByte c p (held ++ [b]) ring = if -2048 ≤ displacement ∧ displacement ≤ 2047 then
        d.nextEdit c { p with directive := .copyNew displacement } ring else bad) ∧
    (p.kind = .self → held.length = 1 →
      d.operandByte c p (held ++ [b]) ring = if 1 ≤ raw ∧ raw ≤ 2047 then d.nextEdit c { p with directive := .self raw } ring else bad) ∧
    (p.kind = .fill → held = [] → d.operandByte c p (held ++ [b]) ring = d.nextEdit c { p with directive := .fill b } ring) := by
  intro raw displacement bad
  have hlength (h : held.length = 1) : (held ++ [b]).length = 2 := by simp [h]
  have hraw (h : held.length = 1) : fromLe (held ++ [b]) = raw := (field_whole (Nat.le_of_eq (hlength h))).symm
  refine ⟨fun hk h => ?_, fun hk h => ?_, fun hk h => ?_, fun hk h => ?_⟩
  · subst h
    unfold Decoder.operandByte
    rcases hk with hk | hk
    · rw [hk]
      rfl
    · rw [hk]
      rfl
  · have hsigned : signed16 raw = displacement := signed16_eq (field_lt _ 0 2)
    unfold Decoder.operandByte
    rw [hk, hlength h, hraw h, hsigned, if_neg (by decide)]
    by_cases hd : -2048 ≤ displacement ∧ displacement ≤ 2047
    · rw [if_pos hd]
      exact if_neg (by omega)
    · rw [if_neg hd]
      exact if_pos (by omega)
  · unfold Decoder.operandByte
    rw [hk]
    dsimp only
    rw [hlength h, hraw h, if_neg (by decide : ¬2 < 2)]
    by_cases hd : 1 ≤ raw ∧ raw ≤ 2047
    · rw [if_pos hd]
      exact if_neg (by omega)
    · rw [if_neg hd]
      exact if_pos (by omega)
  · subst h
    unfold Decoder.operandByte
    rw [hk]
    rfl

/-- A byte of an edit's skip or length: the skip is tested at its second byte, the length at its one (R55). -/
theorem Decoder.editHeadByte_spec (c : SectionContext) (p : PartialDirective) (held : Bytes) (b : Byte) (ring : Ring) (d : Decoder) :
    let skip := field (held ++ [b]) 0 2
    let staged (q : PartialDirective) (stage : DirectiveStage) : ParseOutcome :=
      .done { d with record := .directive { q with stage := stage } } ring []
    let bad : ParseOutcome := .fault .badDirective (some c.number) p.block?
    (held = [] → d.editHeadByte c p (held ++ [b]) ring = staged p (.editHead [b])) ∧
    (held.length = 1 →
      d.editHeadByte c p (held ++ [b]) ring = if skip ≤ 511 then staged p (.editHead (held ++ [b])) else bad) ∧
    (held.length = 2 →
      (b.toNat = 0 ∨ 64 < b.toNat → d.editHeadByte c p (held ++ [b]) ring = bad) ∧
      (1 ≤ b.toNat → b.toNat ≤ 64 →
        d.editHeadByte c p (held ++ [b]) ring = if p.cursor + skip + b.toNat ≤ 512 then
          staged { p with cursor := p.cursor + skip + b.toNat } (.editData (p.cursor + skip) b.toNat ring.tailPlace 0)
        else .fault .editOverrun (some c.number) p.block?)) := by
  intro skip staged bad
  have hlength : (held ++ [b]).length = held.length + 1 := by simp
  unfold Decoder.editHeadByte
  refine ⟨fun h => ?_, fun h => ?_, fun h => ⟨fun hb => ?_, fun hb1 hb2 => ?_⟩⟩
  · subst h
    rfl
  · dsimp only
    by_cases hskip : skip ≤ 511
    · rw [if_pos hskip, if_neg (by omega), if_pos (by omega)]
    · rw [if_neg hskip, if_pos (by omega)]
  · dsimp only
    rw [field_last h b, if_neg (by omega), if_neg (by omega), if_pos (by omega)]
  · dsimp only
    rw [field_last h b, if_neg (by omega), if_neg (by omega), if_neg (by omega)]
    by_cases hfits : p.cursor + skip + b.toNat ≤ 512
    · rw [if_pos hfits, if_neg (by omega)]
    · rw [if_neg hfits, if_pos (by omega)]

/-- A complete directive gives its BLOCK item, and the last of a section what ends it (R52, R79, R84). -/
theorem Decoder.nextEdit_spec (ring : Ring) (d : Decoder) (c : SectionContext) (p : PartialDirective) (own : Nat)
    (h : p.block? = some own) :
    let item : Item := .block ⟨c.number, own, p.increment, p.directive, p.edits⟩
    (p.edits.length < p.editCount →
      d.nextEdit c p ring = .done { d with record := .directive { p with stage := .editHead [] } } ring []) ∧
    (p.editCount ≤ p.edits.length →
      (own + 1 ≠ c.start + c.count → d.nextEdit c p ring = .done { d with position := .lead, record := .nothing } ring [item]) ∧
      (own + 1 = c.start + c.count → c.hasDigest = true →
        d.nextEdit c p ring = .done { d with position := .trailer, record := .bytes [] } ring [item]) ∧
      (own + 1 = c.start + c.count → c.hasDigest = false →
        d.nextEdit c p ring = .done { d with
          position := .markerExpected, record := .nothing, context := some { c with endPushed := true } } ring
          [item, .sectionEnd c.number c.start c.count none])) := by
  intro item
  have hown : p.block?.getD 0 = own := by rw [h]; rfl
  have hfinish : d.finishDirective c p ring = if own + 1 = c.start + c.count then
      if c.hasDigest then .done { d with position := .trailer, record := .bytes [] } ring [item]
      else .done { d with position := .markerExpected, record := .nothing, context := some { c with endPushed := true } } ring
        [item, .sectionEnd c.number c.start c.count none]
    else .done { d with position := .lead, record := .nothing } ring [item] := by
    unfold Decoder.finishDirective
    rw [hown]
  have hlast (hcount : p.editCount ≤ p.edits.length) : d.nextEdit c p ring = d.finishDirective c p ring :=
    if_neg (Nat.not_lt.mpr hcount)
  refine ⟨fun hmore => if_pos hmore, fun hcount => ⟨fun hinside => ?_, fun hend hdigest => ?_, fun hend hdigest => ?_⟩⟩
  · rw [hlast hcount, hfinish, if_neg hinside]
  · rw [hlast hcount, hfinish, if_pos hend, if_pos hdigest]
  · rw [hlast hcount, hfinish, if_pos hend, hdigest, if_neg Bool.false_ne_true]

/-- Settles O60: by the position at which the byte stands, and inside a directive by its stage. -/
theorem streamGrammar : Obligations.StreamGrammar := by
  unfold Obligations.StreamGrammar
  refine ⟨fun length width ring b d => ⟨?_, ?_, ?_, ?_, ?_⟩, Decoder.nextEdit_spec⟩
  · exact fun h => d.parse_seeking h length width ring b
  · exact fun h => d.parse_markerExpected h length width ring b
  · intro held hr
    refine ⟨fun h hl => ?_, fun h hl => ?_, fun h hl => ?_, fun h hl => ?_, fun c h hl hc => ?_⟩
    · rcases h with h | h
      · exact (d.parse_header h hr length width ring b).trans (if_pos hl)
      · exact (d.parse_endBody h hr length width ring b).trans (if_pos hl)
    · have hdone := (d.parse_header h hr length width ring b).trans (if_neg (by omega))
      rw [hdone]
      exact d.headerDone_spec length width (held ++ [b]) ring
    · have hdone := (d.parse_endBody h hr length width ring b).trans (if_neg (by omega))
      rw [hdone]
      exact d.endBodyDone_spec length (held ++ [b]) ring
    · exact d.parse_trailer_short h hr hl length width ring b
    · exact d.parse_trailer_last h hr hl hc length width ring b
  · exact fun h => d.parse_lead h length width ring b
  · intro c p h hc hr
    rw [d.parse_directive h hc hr length width ring b]
    refine ⟨fun hs => ?_, fun held hs => ?_, fun place taken hs => ?_, fun held hs => ?_, fun offset count place taken hs => ?_⟩
    all_goals rw [Decoder.directiveByte, hs]
    · exact d.incrementByte_spec c p b ring
    · exact d.operandByte_spec c p held b ring
    · refine ⟨fun hfull => if_pos hfull, fun hroom hmore => ?_, fun hroom hlast => ?_⟩
      · exact (if_neg (Nat.not_le.mpr hroom)).trans (if_pos (by simp only [Config.blockBytes]; omega))
      · subst hlast
        exact (if_neg (Nat.not_le.mpr hroom)).trans (if_neg (by decide))
    · exact d.editHeadByte_spec c p held b ring
    · refine ⟨fun hfull => if_pos hfull, fun hroom hmore => ?_, fun hroom hlast => ?_⟩
      · exact (if_neg (Nat.not_le.mpr hroom)).trans (if_pos hmore)
      · exact (if_neg (Nat.not_le.mpr hroom)).trans (if_neg (Nat.not_lt.mpr hlast))

end Sys2Proof.Machine
end

section
/-! CT: the reports and what they leave of the map and F, WAIVE, and the walk of a repair scan (R24 to R28, R38 to R42). -/

namespace Sys2Proof.Machine

/-! ### States of the map -/

theorem Tracker.state_setState {t : Tracker} {b : Nat} (h : b < t.map.length) (c : Coverage) (k : Nat) :
    (t.setState b c).state k = if k = b then c else t.state k := by
  unfold Tracker.state Tracker.setState
  rw [List.getD_eq_getElem?_getD, List.getD_eq_getElem?_getD, List.getElem?_set]
  by_cases hk : k = b
  · subst hk
    simp [h]
  · simp [hk, Ne.symm hk]

theorem Tracker.state_written {t : Tracker} {b : Nat} (h : b < t.map.length) (c : Coverage) (k : Nat) :
    (t.written b c).state k = if k = b then c else t.state k :=
  Tracker.state_setState h c k

/-- What a list operation leaves of the account. -/
theorem Account.ListOnly.fields {t : Tracker} {a : Account} (h : a.ListOnly t) :
    a.tracker.map = t.map ∧ a.tracker.frontier = t.frontier ∧ a.tracker.scan = t.scan := by
  obtain ⟨repairs, overflow, he⟩ := h
  rw [he]
  exact ⟨rfl, rfl, rfl⟩

theorem Account.ListOnly.state {t : Tracker} {a : Account} (h : a.ListOnly t) (k : Nat) : a.tracker.state k = t.state k := by
  unfold Tracker.state
  rw [h.fields.1]

/-- Equal beginnings of two maps, as states of blocks. -/
theorem take_eq_take_iff_getD {α : Type} {xs ys : List α} (hl : xs.length = ys.length) (d : α) (n : Nat) :
    xs.take n = ys.take n ↔ ∀ k, k < n → xs.getD k d = ys.getD k d := by
  constructor
  · intro h k hk
    have h := congrArg (fun zs => zs[k]?) h
    simp only [List.getElem?_take, hk, if_true] at h
    rw [List.getD_eq_getElem?_getD, List.getD_eq_getElem?_getD, h]
  · intro h
    refine List.ext_getElem (by simp [hl]) fun k h1 h2 => ?_
    have hk : k < n := (List.length_take ▸ h1).trans_le (Nat.min_le_left ..)
    have hx : k < xs.length := (List.length_take ▸ h1).trans_le (Nat.min_le_right ..)
    have hy : k < ys.length := hl ▸ hx
    have h := h k hk
    rw [List.getD_eq_getElem _ _ hx, List.getD_eq_getElem _ _ hy] at h
    simpa using h

/-! ### The reports -/

/-- A write report is a list operation after the map and F have changed (R26). -/
theorem Tracker.writeReport_listOnly (b : Nat) (tainted : Bool) (t : Tracker) :
    (t.writeReport b tainted).ListOnly (t.written b (if tainted then .suspect else .written)) := by
  rw [Tracker.writeReport_eq]
  cases tainted
  · exact Tracker.removeBlock_listOnly _ _
  · simp only [if_true]
    split
    · exact ⟨_, _, rfl⟩
    · exact Tracker.addRange_listOnly _ _

/-- A fill report is a list operation after the map has changed (R27). -/
theorem Tracker.fillReport_listOnly (b : Nat) (final : Bool) (t : Tracker) :
    (t.fillReport b final).ListOnly (t.setState b (if final then .waived else .carried)) := by
  unfold Tracker.fillReport
  cases final
  · dsimp only
    rw [if_neg Bool.false_ne_true, if_neg Bool.false_ne_true]
    split
    · exact ⟨_, _, rfl⟩
    · exact Tracker.addRange_listOnly _ _
  · exact Tracker.removeBlock_listOnly _ _

/-- The state that a section result gives its blocks (R28). -/
def TaskOutcome.coverage (outcome : TaskOutcome) : Coverage := if outcome = .isMatch then .verified else .suspect

/-- A section result is a list operation after the map has changed, and the test of the walk (R28, R40). -/
theorem Tracker.sectionResult_listOnly (start count : Nat) (outcome : TaskOutcome) (t : Tracker) :
    ∃ a : Account, a.ListOnly (t.mapRange ⟨start, count⟩ (fun _ => outcome.coverage)) ∧
      t.sectionResult start count outcome = { a with tracker := a.tracker.restartScan t.map } := by
  cases outcome with
  | isMatch => exact ⟨_, Tracker.removeBlocks_listOnly _ _, rfl⟩
  | mismatch | check => exact ⟨_, Tracker.addRange_listOnly _ _, rfl⟩

/-- The test of the walk keeps the map, F and the repair list. -/
theorem Tracker.restartScan_fields (before : List Coverage) (t : Tracker) :
    (t.restartScan before).map = t.map ∧ (t.restartScan before).frontier = t.frontier ∧ (t.restartScan before).repairs = t.repairs ∧
      (t.restartScan before).overflow = t.overflow := by
  rcases t.restartScan_spec before with h | ⟨sc, _, h⟩
  · rw [h]
    exact ⟨rfl, rfl, rfl, rfl⟩
  · rw [h]
    exact ⟨rfl, rfl, rfl, rfl⟩

/-- The walk after its test: it starts again when a state below its position has changed (R40). -/
theorem Tracker.restartScan_scan {before : List Coverage} {t : Tracker} (hl : before.length = t.map.length) :
    (t.scan = none → (t.restartScan before).scan = none) ∧
      ∀ sc, t.scan = some sc →
        ((∃ k, k < sc.position ∧ t.state k ≠ before.getD k .empty) → (t.restartScan before).scan = some ⟨0, [], false⟩) ∧
        ((∀ k, k < sc.position → t.state k = before.getD k .empty) → (t.restartScan before).scan = some sc) := by
  unfold Tracker.restartScan
  refine ⟨fun h => by rw [h]; exact h, fun sc h => ?_⟩
  rw [h]
  dsimp only
  have htake := take_eq_take_iff_getD hl Coverage.empty sc.position
  refine ⟨fun ⟨k, hk, hne⟩ => ?_, fun hsame => ?_⟩
  · rw [if_neg fun he => hne (htake.mp he k hk).symm]
    rfl
  · rw [if_pos (htake.mpr fun k hk => (hsame k hk).symm)]
    exact h

/-- The states after a section result (R28). -/
theorem Tracker.state_sectionResult {t : Tracker} {k : Nat} (h : k < t.map.length) (start count : Nat) (outcome : TaskOutcome) :
    (t.sectionResult start count outcome).tracker.state k =
      if start ≤ k ∧ k < start + count then outcome.coverage else t.state k := by
  obtain ⟨a, hlist, he⟩ := t.sectionResult_listOnly start count outcome
  have hstate : (t.sectionResult start count outcome).tracker.state k = a.tracker.state k := by
    rw [he, Tracker.state, (Tracker.restartScan_fields _ _).1]
    rfl
  rw [hstate, hlist.state, Tracker.state_mapRange _ _ _ h]
  simp only [BlockRange.holds_iff, BlockRange.stop]

/-- A hole request changes the list and F only (R25). -/
theorem Tracker.holeRequest_fields (start : Nat) (t : Tracker) :
    (t.holeRequest start).1.tracker.map = t.map ∧ (t.holeRequest start).1.tracker.frontier = max t.frontier start ∧
      (t.holeRequest start).2 = if t.frontier < start then ⟨t.frontier, start - t.frontier⟩ else ⟨start, 0⟩ := by
  unfold Tracker.holeRequest
  by_cases h : t.frontier < start
  · rw [if_pos h, if_pos h, Nat.max_eq_right (Nat.le_of_lt h)]
    exact ⟨(t.addRange_listOnly _).fields.1, rfl, rfl⟩
  · rw [if_neg h, if_neg h, Nat.max_eq_left (Nat.le_of_not_lt h)]
    exact ⟨rfl, rfl, rfl⟩

/-- Settles O23: each report changes the map and F as its rule says and then the list only. -/
theorem reportsChangeTheMap : Obligations.ReportsChangeTheMap := by
  unfold Obligations.ReportsChangeTheMap
  intro t b hb
  refine ⟨fun tainted k => ⟨?_, ?_⟩, fun final k => ⟨?_, ?_⟩, fun start count outcome k hk => ⟨?_, ?_⟩, fun start count outcome => ?_,
    fun start k => ?_⟩
  · rw [(t.writeReport_listOnly b tainted).state, Tracker.state_written hb]
  · exact (t.writeReport_listOnly b tainted).fields.2.1
  · rw [(t.fillReport_listOnly b final).state, Tracker.state_setState hb]
  · exact (t.fillReport_listOnly b final).fields.2.1
  · exact Tracker.state_sectionResult hk start count outcome
  · obtain ⟨a, hlist, he⟩ := t.sectionResult_listOnly start count outcome
    rw [he]
    exact ((Tracker.restartScan_fields _ _).2.1).trans hlist.fields.2.1
  · obtain ⟨a, hlist, he⟩ := t.sectionResult_listOnly start count outcome
    obtain ⟨hmap, _, hscan⟩ := hlist.fields
    have hlength : t.map.length = a.tracker.map.length := by rw [hmap]; exact (mapStates_length _ _ _).symm
    obtain ⟨hnone, hsome⟩ := Tracker.restartScan_scan (t := a.tracker) hlength
    have hafter (k : Nat) : (t.sectionResult start count outcome).tracker.state k = a.tracker.state k := by
      rw [he, Tracker.state, (Tracker.restartScan_fields _ _).1]
      rfl
    simp only [hafter]
    rw [he]
    refine ⟨fun h => hnone (hscan.trans h), fun sc h => hsome sc (hscan.trans h)⟩
  · obtain ⟨hmap, hfrontier, hhole⟩ := t.holeRequest_fields start
    refine ⟨?_, hfrontier, hhole⟩
    unfold Tracker.state
    rw [hmap]

/-! ### Accounts taken by CT -/

/-- CT's taking of a report: the account, and outside ABORTING the REPAIR_OVERFLOW of a flag newly set (R34). -/
theorem Work.account_eq (a : Account) (w : Work) :
    w.account a = ⟨{ w.job with tracker := a.tracker },
      w.notices ++ if w.job.phase = .aborting then [] else overflowNotices w.job.descriptor.jobId a.overflowed⟩ := by
  unfold Work.account
  cases a.overflowed with
  | none => simp [overflowNotices, Work.map]
  | some r =>
    dsimp only
    by_cases hp : w.job.phase = .aborting
    · rw [if_pos hp, List.append_nil]
      exact if_pos hp
    · rw [if_neg hp]
      exact if_neg hp

/-! ### WAIVE -/

/-- A run of removals: a block that is covered afterwards is none of those removed. -/
theorem Tracker.removeBlocks_covers (bs : List Nat) : ∀ {t : Tracker}, RangesInOrder t.repairs → ∀ {k : Nat},
    Covers (t.removeBlocks bs).tracker.repairs k → k ∉ bs ∧ Covers t.repairs k := by
  induction bs with
  | nil => exact fun _ _ hk => ⟨List.not_mem_nil, hk⟩
  | cons b rest ih =>
    intro t h k hk
    rw [Tracker.removeBlocks_cons] at hk
    obtain ⟨hrest, hcovers⟩ := ih (Tracker.removeBlock_inOrder b h) hk
    obtain ⟨hne, hcovers⟩ := Tracker.removeBlock_covers h.apart hcovers
    exact ⟨fun hmem => (List.mem_cons.mp hmem).elim hne hrest, hcovers⟩

theorem Coverage.waive_eq (c : Coverage) : c.waive = if c = .carried ∨ c = .suspect then .waived else c := by
  cases c <;> rfl

/-- The blocks that WAIVE moves, and those it leaves EMPTY (R38). -/
theorem Tracker.waivable_eq (r : BlockRange) (t : Tracker) :
    t.waivable r = r.blocks.filter (fun b => t.state b = .carried ∨ t.state b = .suspect) := by
  unfold Tracker.waivable
  refine List.filter_congr fun b _ => ?_
  rw [Bool.eq_iff_iff]
  simp

theorem Tracker.emptyIn_eq (r : BlockRange) (t : Tracker) : t.emptyIn r = r.blocks.filter (fun b => t.state b = .empty) := by
  unfold Tracker.emptyIn
  refine List.filter_congr fun b _ => ?_
  rw [Bool.eq_iff_iff]
  simp

theorem readWaiveRange_eq (frontier : Nat) (body : Bytes) :
    readWaiveRange frontier body =
      if 1 ≤ field body 2 2 ∧ field body 0 2 + field body 2 2 ≤ frontier then .ok ⟨field body 0 2, field body 2 2⟩ else .error 2 := by
  unfold readWaiveRange
  by_cases h : 1 ≤ field body 2 2 ∧ field body 0 2 + field body 2 2 ≤ frontier
  · rw [if_pos h]
    exact if_neg (by omega)
  · rw [if_neg h]
    exact if_pos (by omega)

/-- An accepted WAIVE in READY. -/
theorem State.Accepts.exec_waive {s : State} {j : Job} {tag : Byte} {body : Bytes} (h : s.Accepts tag 0x33 body) (hj : s.job = some j)
    (hp : j.phase = .ready) :
    exec (.waive tag body) s = .next ((s.entered tag 0x33).withFields tag (readWaiveRange j.tracker.frontier body) (fun r s =>
      (s.reply tag .ok (.waived (j.tracker.waivable r).length (j.tracker.emptyIn r).length)).finishWork
        ((Work.mk j []).account (j.tracker.waive r)))).transmit := by
  rw [exec_request ⟨rfl, rfl⟩, h.request_eq]
  show Host.Outcome.next (State.waive tag body (s.entered tag 0x33)).transmit = _
  unfold State.waive
  rw [State.atJobState_ready tag _ ((s.entered_job tag 0x33).trans hj) hp]

/-- Settles O25: WAIVE changes the states of its range, takes those blocks off the list and answers their number. -/
theorem waiveWaives : Obligations.WaiveWaives := by
  unfold Obligations.WaiveWaives
  intro tag body s j haccepts hj hp first count blocks
  have hexec := haccepts.exec_waive hj hp
  rw [readWaiveRange_eq] at hexec
  refine ⟨fun h => ?_, fun h1 h2 => ?_⟩
  · rw [hexec, if_neg h]
    rfl
  · rw [if_pos ⟨h1, h2⟩, State.withFields_ok, Tracker.waivable_eq, Tracker.emptyIn_eq, Work.account_eq] at hexec
    have hlist := Tracker.removeBlocks_listOnly (j.tracker.waivable ⟨first, count⟩) (j.tracker.mapRange ⟨first, count⟩ Coverage.waive)
    refine ⟨(j.tracker.waive ⟨first, count⟩).tracker, _, hexec, ?_, hlist.fields.2.1, fun horder k hk1 hk2 hstate => ?_, fun k hk => ?_⟩
    · show ((if j.phase = .aborting then [] else _) : List Notice) = [] ∨ _
      rw [hp, if_neg (by decide)]
      cases (j.tracker.waive ⟨first, count⟩).overflowed with
      | none => exact Or.inl rfl
      | some r => exact Or.inr ⟨r, rfl⟩
    · intro x hx
      by_contra hheld
      have hcovers : Covers (j.tracker.waive ⟨first, count⟩).tracker.repairs k := ⟨x, hx, by simpa using hheld⟩
      refine (Tracker.removeBlocks_covers _ (t := j.tracker.mapRange ⟨first, count⟩ Coverage.waive) horder hcovers).1 ?_
      rw [Tracker.waivable_eq, List.mem_filter, BlockRange.mem_blocks, BlockRange.holds_iff]
      exact ⟨⟨hk1, hk2⟩, by simpa using hstate⟩
    · refine (hlist.state k).trans ?_
      rw [Tracker.state_mapRange _ _ _ hk, Coverage.waive_eq]
      simp only [BlockRange.holds_iff, BlockRange.stop]
      by_cases hrange : first ≤ k ∧ k < first + count
      · rw [if_pos hrange]
        simp only [hrange, true_and]
      · rw [if_neg hrange, if_neg fun h => hrange ⟨h.1, h.2.1⟩]

/-! ### The repair scan -/

/-- The scan after the visit of block p, when p is below F. -/
def Tracker.visited (sc : Scan) (t : Tracker) : Scan := if sc.position < t.frontier then sc.visit (t.state sc.position) else sc

/-- A step of the walk that goes on (R39). -/
theorem Tracker.scanStep_goesOn {sc : Scan} {t : Tracker} (h1 : (t.visited sc).foundMore = false)
    (h2 : (t.visited sc).position < t.frontier) : t.scanStep sc = .goesOn { t with scan := some (t.visited sc) } :=
  if_neg (show ¬((t.visited sc).foundMore = true ∨ t.frontier ≤ (t.visited sc).position) by
    rw [h1]
    simpa using h2)

/-- A step of the walk that ends it (R39, R41). -/
theorem Tracker.scanStep_ends {sc : Scan} {t : Tracker} (h : (t.visited sc).foundMore = true ∨ t.frontier ≤ (t.visited sc).position) :
    t.scanStep sc = .ends (t.completeScan (t.visited sc)) := if_pos h

/-- The account at the end of a walk (R41). -/
theorem Tracker.completeScan_eq (sc : Scan) (t : Tracker) :
    t.completeScan sc = ⟨{ t with repairs := sc.ranges, scan := none, overflow := sc.foundMore },
      if sc.foundMore = true ∧ t.overflow = false then some ⟨sc.position, 1⟩ else none⟩ := by
  unfold Tracker.completeScan
  cases hm : sc.foundMore with
  | false => rfl
  | true =>
    dsimp only
    rw [if_pos rfl, Tracker.setOverflow_eq]
    cases t.overflow <;> simp

/-- The last step of a walk at JC: READY, the list and the flag, and SCAN_DONE after any REPAIR_OVERFLOW (R15, R41). -/
theorem Job.scanVisit_ends {j : Job} {sc : Scan} (hsc : j.tracker.scan = some sc) (hp : j.phase = .servicing)
    (h : (j.tracker.visited sc).foundMore = true ∨ j.tracker.frontier ≤ (j.tracker.visited sc).position) :
    let visited := j.tracker.visited sc
    j.scanVisit = ⟨{ j with
        phase := .ready
        tracker := { j.tracker with repairs := visited.ranges, scan := none, overflow := visited.foundMore } },
      (if visited.foundMore = true ∧ j.tracker.overflow = false then
        [.repairOverflow j.descriptor.jobId ⟨visited.position, 1⟩ 32] else [])
        ++ [.scanDone j.descriptor.jobId visited.ranges.length visited.foundMore]⟩ := by
  intro visited
  have hnotices : (if j.phase = .aborting then []
      else overflowNotices j.descriptor.jobId (if visited.foundMore = true ∧ j.tracker.overflow = false then some ⟨visited.position, 1⟩ else none))
      = if visited.foundMore = true ∧ j.tracker.overflow = false then
          [.repairOverflow j.descriptor.jobId ⟨visited.position, 1⟩ 32] else [] := by
    rw [hp, if_neg (by decide)]
    split
    · rfl
    · rfl
  unfold Job.scanVisit
  rw [hsc]
  dsimp only
  rw [Tracker.scanStep_ends h]
  dsimp only
  rw [Work.account_eq, Tracker.completeScan_eq]
  dsimp only
  rw [hnotices]
  rfl

/-- A block that does not belong on the list is passed over (R39). -/
theorem Scan.visit_unlistable {c : Coverage} (h : c.listable = false) (sc : Scan) :
    sc.visit c = { sc with position := sc.position + 1 } := by
  simp [Scan.visit, h]

/-- A block that follows the last range lengthens it (R39). -/
theorem Scan.visit_lengthens {c : Coverage} (h : c.listable = true) {sc : Scan} {before : List BlockRange} {r : BlockRange}
    (hr : sc.ranges = before ++ [r]) (hstop : r.stop = sc.position) :
    sc.visit c = { sc with position := sc.position + 1, ranges := before ++ [⟨r.first, r.count + 1⟩] } := by
  have hcontinues : sc.continues = true := by simp [Scan.continues, hr, hstop]
  simp [Scan.visit, h, hcontinues, hr, extendLast_append]

/-- A block apart from the last range begins one, where there is room (R39). -/
theorem Scan.visit_begins {c : Coverage} (h : c.listable = true) {sc : Scan}
    (hapart : ∀ r, sc.ranges.getLast? = some r → r.stop ≠ sc.position) :
    sc.visit c = if sc.ranges.length < 32 then { sc with position := sc.position + 1, ranges := sc.ranges ++ [⟨sc.position, 1⟩] }
      else { sc with foundMore := true } := by
  have hcontinues : sc.continues = false := by
    unfold Scan.continues
    split
    · next r hr => simpa using hapart r hr
    · rfl
  simp [Scan.visit, h, hcontinues]

theorem Coverage.listable_iff {c : Coverage} : c.listable = true ↔ c = .empty ∨ c = .carried ∨ c = .suspect := by
  cases c <;> simp [Coverage.listable]

theorem Coverage.listable_false_iff {c : Coverage} : c.listable = false ↔ c = .written ∨ c = .verified ∨ c = .waived := by
  cases c <;> simp [Coverage.listable]

/-- An accepted REPAIR_SCAN in READY. -/
theorem State.Accepts.exec_repairScan {s : State} {j : Job} {tag : Byte} {body : Bytes} (h : s.Accepts tag 0x34 body)
    (hj : s.job = some j) (hp : j.phase = .ready) :
    exec (.repairScan tag body) s = .next { s.answered tag 0x34 .started .empty with
      job := some { j with phase := .servicing, tracker := { j.tracker with scan := some ⟨0, [], false⟩ } } } := by
  rw [exec_request ⟨rfl, rfl⟩, h.request_eq]
  show Host.Outcome.next (State.repairScan tag (s.entered tag 0x34)).transmit = _
  unfold State.repairScan
  rw [State.atJobState_ready tag _ ((s.entered_job tag 0x34).trans hj) hp]
  rfl

/-- Settles O26: the walk begins at block 0, and each visit moves it on or ends it. -/
theorem repairScanWalks : Obligations.RepairScanWalks := by
  unfold Obligations.RepairScanWalks
  refine ⟨fun tag body s j haccepts hj hp => haccepts.exec_repairScan hj hp, fun s j sc hj hsc hp => ?_,
    fun sc => ⟨fun c h => ?_, fun c before r h hr hstop => ?_, fun c h hapart => ?_⟩, fun s j hj hp => ?_, fun s j hj h => ?_⟩
  · have hexec : exec .scanVisit s = .next (s.closeEvent j.scanVisit) :=
      congrArg Host.Outcome.next (State.atJobWhen_of _ hj (by simp [Job.canScan, hp, hsc]))
    refine ⟨fun h1 h2 => ?_, fun h => ?_⟩
    · rw [hexec, Job.scanVisit, hsc]
      dsimp only
      rw [Tracker.scanStep_goesOn h1 h2]
      rfl
    · rw [hexec, Job.scanVisit_ends hsc hp h]
      rfl
  · exact Scan.visit_unlistable (Coverage.listable_false_iff.mpr h) sc
  · exact Scan.visit_lengthens (Coverage.listable_iff.mpr h) hr hstop
  · exact Scan.visit_begins (Coverage.listable_iff.mpr h) hapart
  · exact congrArg Host.Outcome.next (State.atJobWhen_not _ hj (by simp [Job.canScan, hp]))
  · exact congrArg Host.Outcome.next (State.atJobWhen_of (p := fun j => j.signals.scanStop) _ hj h)

end Sys2Proof.Machine
end

section
/-! RU: taking the head of the queue, beginning an item, and the plan of a block (R25, R98 to R107, R112, R113). -/

namespace Sys2Proof.Machine

/-! ### First transactions -/

theorem StoreOp.blockStep_eq (op : StoreOp) : op.blockStep = stepOf op := by cases op <;> rfl

theorem Descriptor.hasBase_iff {d : Descriptor} {e : Int} : d.hasBase e = true ↔ 0 ≤ e ∧ e < d.baseLength := by
  simp [Descriptor.hasBase]

/-- A carry guess reads the base block at the displacement of its column, or writes its fallback byte (R113). -/
theorem Job.carryGuess_eq (j : Job) (b : Nat) (fallback : Byte) : j.carryGuess b fallback = j.guessOf b fallback := by
  unfold Job.carryGuess Job.guessOf
  simp only [Descriptor.hasBase_iff]
  rfl

theorem Job.holeRequest_eq (j : Job) (b : Nat) : j.holeRequest b = j.holeOpOf b := by
  unfold Job.holeRequest Job.holeOpOf
  cases hp : j.descriptor.fillPolicy with
  | carry => exact (j.carryGuess_eq b _).trans (if_pos rfl).symm
  | byte => exact (if_neg (by decide)).symm
  | noFill => exact (if_neg (by decide)).symm

theorem Job.fillRequest_eq (j : Job) (f : FillOperation) (b : Nat) :
    j.fillRequest f b = if f.mode = .carry then j.guessOf b f.value
      else .write (storeIndex j.descriptor.targetFirst b) (List.replicate 512 f.value) := by
  unfold Job.fillRequest
  cases hm : f.mode with
  | carry => exact (j.carryGuess_eq b _).trans (if_pos rfl).symm
  | byte => exact (if_neg (by decide)).symm

theorem ReconUnit.startBlock_eq (b : Nat) (work : BlockWork) (op : StoreOp) (u : ReconUnit) :
    u.startBlock b work op = { u with block := some ⟨b, stepOf op, work⟩, waiting := some op } := by
  rw [ReconUnit.startBlock, StoreOp.blockStep_eq]

/-! ### The plan of a block -/

/-- A copy reads the base block at its displacement, where that lies in the base region (R104, R105). -/
theorem Descriptor.planCopy_some (d : Descriptor) (b : Nat) (work : Int → BlockWork) (e : Int) :
    d.planCopy b work (some e) = if 0 ≤ (b : Int) + e ∧ (b : Int) + e < d.baseLength then
      .ok (work e, .read (storeIndex d.baseFirst ((b : Int) + e).toNat)) else .error .sourceRange := by
  unfold Descriptor.planCopy
  simp only [Descriptor.hasBase_iff]
  rfl

/-- A copy with the running displacement (R104). -/
theorem Descriptor.planCopy_eq (d : Descriptor) (b : Nat) (work : Int → BlockWork) (displacement : Option Int) :
    d.planCopy b work displacement = match displacement with
      | none => .error .skipWithoutSource
      | some e => if 0 ≤ (b : Int) + e ∧ (b : Int) + e < d.baseLength then
          .ok (work e, .read (storeIndex d.baseFirst ((b : Int) + e).toNat)) else .error .sourceRange := by
  cases displacement with
  | none => rfl
  | some e => exact d.planCopy_some b work e

/-- The plan of an item's own block is that of its directive. -/
theorem Job.planBlock_own (j : Job) {i : BlockItem} {b : Nat} (h : i.block ≤ b) :
    j.planBlock i b = match i.directive with
      | .copyKeep => j.descriptor.planCopy b .ownCopy j.unit.displacement
      | .copyNew e => j.descriptor.planCopy b .ownCopy (some e)
      | .self distance => j.planSelf b distance
      | .literal place => .ok (.ownData, .write (j.descriptor.targetIndex b) (j.ring.slice place Config.blockBytes))
      | .fill value => .ok (.ownData, .write (j.descriptor.targetIndex b) (uniformBlock value)) :=
  if_neg (Nat.not_lt.mpr h)

/-- Settles O29: the plan of a skipped block, and of an own block by its directive. -/
theorem blockPlans : Obligations.BlockPlans := by
  unfold Obligations.BlockPlans
  intro j i b d copy
  refine ⟨fun h => ?_, fun h hd => ?_, fun e h hd => ?_, fun n h hd hbad => ?_, fun n h hd hn hstate => ?_, fun v h hd => ?_,
    fun place h hd => ?_⟩
  · exact (if_pos h).trans (d.planCopy_eq b .skipped j.unit.displacement)
  all_goals
    rw [j.planBlock_own h, hd]
    dsimp only
  · exact d.planCopy_eq b .ownCopy j.unit.displacement
  · exact d.planCopy_some b .ownCopy e
  · unfold Job.planSelf
    rcases hbad with hbad | hbad
    · exact if_pos hbad
    · split
      · rfl
      · rw [hbad]
  · unfold Job.planSelf
    rw [if_neg (Nat.not_lt.mpr hn)]
    cases hs : j.tracker.state (b - n) with
    | empty => exact absurd hs hstate
    | carried | suspect | written | verified | waived => rfl
  · rfl
  · rfl

/-! ### Taking an item -/

/-- Settles O27: with nothing waiting at SD the order of RU and SD does not matter; else it is drawn. -/
theorem ruTakesHead : Obligations.RuTakesHead := by
  unfold Obligations.RuTakesHead
  intro s j item rest hj hp hidle hq left unitFirst decoderFirst
  have hcan : j.canTakeItem = true := by simp [Job.canTakeItem, ReconUnit.isIdle, hp, hidle, hq]
  have htake (first : Bool) : j.takeItem first (s.store.outstanding .ve) =
      if first then decoderFirst else ⟨unitFirst.job.wakeDecoder, unitFirst.notices⟩ := by
    unfold Job.takeItem
    rw [hq]
    rfl
  have hexec : exec .ruTakeItem s = .next (if j.decoder.hasWaiting then
      s.drawn.closeGranting (j.takeItem (Config.decoderFirst s.freeIndex) (s.store.outstanding .ve))
      else s.closeGranting (j.takeItem false (s.store.outstanding .ve))) := by
    show Host.Outcome.next s.ruTakeItem = _
    unfold State.ruTakeItem
    rw [hj]
    exact congrArg Host.Outcome.next (if_pos hcan)
  refine ⟨fun h1 h2 => ?_, fun h => ?_⟩
  · rw [hexec, if_neg (by simp [Decoder.hasWaiting, h1, h2]), htake, if_neg Bool.false_ne_true]
  · rw [hexec, if_pos, htake]
    · rfl
    · rcases h with h | h
      · simp [Decoder.hasWaiting, h]
      · simp [Decoder.hasWaiting, h]

/-! ### Beginning an item -/

/-- A hole request for a start at or below F finds no hole: the item's work goes on without one (R25). -/
theorem Work.takeHole_none {w : Work} {start : Nat} (h : start ≤ w.job.tracker.frontier) (item : Item) (whenNone : Work → Work) :
    w.takeHole item start whenNone = whenNone w := by
  unfold Work.takeHole Tracker.holeRequest
  rw [if_neg (Nat.not_lt.mpr h)]
  exact if_pos (Or.inl rfl)

/-- The account of a hole from F to a start above it. -/
def Tracker.holed (stop : Nat) (t : Tracker) : Account :=
  let listed := t.addRange ⟨t.frontier, stop - t.frontier⟩
  ⟨{ listed.tracker with frontier := stop }, listed.overflowed⟩

theorem Tracker.holeRequest_holed {t : Tracker} {stop : Nat} (h : t.frontier < stop) :
    t.holeRequest stop = (t.holed stop, ⟨t.frontier, stop - t.frontier⟩) := if_pos h

/-- A hole under NONE is listed and left (R112). -/
theorem Work.takeHole_noFill {w : Work} {stop : Nat} (h : w.job.tracker.frontier < stop) (hn : w.job.descriptor.fillPolicy = .noFill)
    (item : Item) (whenNone : Work → Work) :
    w.takeHole item stop whenNone = whenNone (w.account (w.job.tracker.holed stop)) := by
  unfold Work.takeHole
  rw [Tracker.holeRequest_holed h]
  refine if_pos (Or.inr ?_)
  rw [Work.account_eq]
  exact hn

/-- A hole that is filled: RU is in HOLE with the first hole block in hand (R112, R113). -/
theorem Work.takeHole_fills {w : Work} {stop : Nat} (h : w.job.tracker.frontier < stop) (hn : w.job.descriptor.fillPolicy ≠ .noFill)
    (item : Item) (whenNone : Work → Work) :
    w.takeHole item stop whenNone =
      (w.account (w.job.tracker.holed stop)).map (Job.holdItem .hole ⟨item, w.job.tracker.frontier, stop⟩) := by
  have hstop : BlockRange.stop ⟨w.job.tracker.frontier, stop - w.job.tracker.frontier⟩ = stop := by
    simp only [BlockRange.stop]
    omega
  unfold Work.takeHole
  rw [Tracker.holeRequest_holed h]
  dsimp only
  rw [if_neg, hstop]
  rw [Work.account_eq]
  exact not_or.mpr ⟨by omega, hn⟩

/-- RU holds an item that fills a hole: its first block is started with the transaction that the fill policy gives. -/
theorem Job.holdItem_hole (j : Job) {item : Item} (h : (∃ start, item = .sectionBegin start) ∨ ∃ digest, item = .imageEnd digest)
    (first stop : Nat) :
    j.holdItem .hole ⟨item, first, stop⟩ = { j with unit := { j.unit with
      activity := .hole
      item := some ⟨item, first, stop⟩
      block := some ⟨first, stepOf (j.holeOpOf first), .holeFill⟩
      waiting := some (j.holeOpOf first) } } := by
  have hstart : j.holdItem .hole ⟨item, first, stop⟩ = (j.mapUnit fun u => { u with activity := .hole, item := some ⟨item, first, stop⟩ }).mapUnit
      (ReconUnit.startBlock first .holeFill (Job.holeRequest first
        (j.mapUnit fun u => { u with activity := .hole, item := some ⟨item, first, stop⟩ }))) := by
    rcases h with ⟨start, rfl⟩ | ⟨digest, rfl⟩
    · rfl
    · rfl
  rw [hstart, Job.holeRequest_eq]
  show Job.mapUnit _ _ = _
  unfold Job.mapUnit
  rw [ReconUnit.startBlock_eq]
  rfl

/-- RU holds a BLOCK item: its first block is started, or its test is a fault (R99, R104, R116). -/
theorem Job.startItemBlock_block (j : Job) (item : BlockItem) (next stop : Nat) :
    j.startItemBlock ⟨.block item, next, stop⟩ = match j.planBlock item next with
      | .ok (work, op) => { j with unit := { j.unit with block := some ⟨next, stepOf op, work⟩, waiting := some op } }
      | .error code => Job.reportFault ⟨code, some item.sectionNumber, some next, none, 0⟩
          { j with unit := { j.unit with activity := .halted, block := none, waiting := none } } := by
  unfold Job.startItemBlock
  dsimp only
  cases j.planBlock item next with
  | error code => rfl
  | ok plan =>
    obtain ⟨work, op⟩ := plan
    dsimp only [Job.mapUnit]
    rw [ReconUnit.startBlock_eq]

theorem JobPhase.inRun_ne_aborting {p : JobPhase} (h : p.inRun = true) : p ≠ .aborting := by
  rintro rfl
  cases h

/-- The count of a section completed, in a run. -/
theorem Job.takeSectionEnd_eq {j : Job} (hp : j.phase ≠ .aborting) (item : Item) (outstanding : Bool) :
    j.takeSectionEnd item outstanding =
      let counted : Job := { j with counters := { j.counters with
        sectionsCompleted := min (j.counters.sectionsCompleted + 1) 4294967295 } }
      match item.task? with
      | none => counted
      | some t =>
        if j.verifier.hasPlace then (counted.mapVerifier (Verifier.join t)).beginTask outstanding
        else counted.mapUnit (fun u => { u with activity := .verifyWait, item := some ⟨item, 0, 0⟩ }) := by
  unfold Job.takeSectionEnd
  rw [Job.count_counters, if_neg hp]
  rfl

/-- Settles O28: what beginning each kind of item does. -/
theorem itemsBegin : Obligations.ItemsBegin := by
  unfold Obligations.ItemsBegin
  intro j outstanding hrun
  have hp := JobPhase.inRun_ne_aborting hrun
  refine ⟨fun start h => ?_, rfl, fun number start count => ?_, fun number start count digest hplace => ?_,
    fun number start count digest hplace => ?_, fun item => ?_, fun digest h => ?_, fun stop h => ?_⟩
  · exact Work.takeHole_none (w := Work.map (fun j => j.mapUnit (fun u => { u with displacement := some 0 })) ⟨j, []⟩) h _ _
  · exact congrArg (fun j => (⟨j, []⟩ : Work)) (Job.takeSectionEnd_eq hp (.sectionEnd number start count none) outstanding)
  · refine congrArg (fun j => (⟨j, []⟩ : Work)) ((Job.takeSectionEnd_eq hp (.sectionEnd number start count (some digest)) outstanding).trans ?_)
    exact if_pos (by simpa [Verifier.hasPlace] using hplace)
  · refine congrArg (fun j => (⟨j, []⟩ : Work)) ((Job.takeSectionEnd_eq hp (.sectionEnd number start count (some digest)) outstanding).trans ?_)
    exact if_neg (by simpa [Verifier.hasPlace] using hplace)
  · exact congrArg (fun j => (⟨j, []⟩ : Work)) (Job.startItemBlock_block _ item _ _)
  · have hnone := Work.takeHole_none (w := ⟨j, []⟩) h (.imageEnd digest) (Work.map (Job.recordEnd digest))
    exact hnone.trans (congrArg (fun j => (⟨j, []⟩ : Work)) (if_neg hp))
  · have hnotices (w : Work) (hw : w.job.phase = j.phase) (hd : w.job.descriptor = j.descriptor) (hn : w.notices = []) (a : Account) :
        w.account a = ⟨{ w.job with tracker := a.tracker }, overflowNotices j.descriptor.jobId a.overflowed⟩ := by
      rw [Work.account_eq, hw, if_neg hp, hn, hd]
      rfl
    let begun : Work := Work.map (fun j => j.mapUnit (fun u => { u with displacement := some 0 })) ⟨j, []⟩
    refine ⟨fun hpolicy => ?_, fun hpolicy => ?_, fun digest hstop => ⟨fun hpolicy => ?_, fun hpolicy => ?_⟩⟩
    · refine (Work.takeHole_noFill (w := begun) h hpolicy _ _).trans ?_
      rw [hnotices begun rfl rfl rfl]
      rfl
    · refine (Work.takeHole_fills (w := begun) h hpolicy _ _).trans ?_
      rw [hnotices begun rfl rfl rfl]
      exact congrArg (fun j' => (⟨j', _⟩ : Work)) (Job.holdItem_hole _ (Or.inl ⟨stop, rfl⟩) _ _)
    · subst hstop
      refine (Work.takeHole_noFill (w := ⟨j, []⟩) h hpolicy _ _).trans ?_
      rw [hnotices ⟨j, []⟩ rfl rfl rfl]
      exact congrArg (fun j' => (⟨j', _⟩ : Work)) (if_neg hp)
    · subst hstop
      refine (Work.takeHole_fills (w := ⟨j, []⟩) h hpolicy _ _).trans ?_
      rw [hnotices ⟨j, []⟩ rfl rfl rfl]
      exact congrArg (fun j' => (⟨j', _⟩ : Work)) (Job.holdItem_hole _ (Or.inr ⟨digest, rfl⟩) _ _)

end Sys2Proof.Machine
end

section
/-! RU: the completion of its reads and the edits, the orders of JC, the progress monitor, and FILL (R99, R108, R113 to R120). -/

namespace Sys2Proof.Machine

/-! ### Reads -/

/-- RU's read completes at a job. -/
theorem exec_ruReadComplete {s : State} {j : Job} {i : BlockIndex} (hj : s.job = some j) (hf : s.store.inFlight = some ⟨.ru, .read i⟩) :
    exec .ruReadComplete s =
      .next ({ s with store := { s.store with inFlight := none } }.closeGranting ⟨j.unitRead (s.store.readBlock i), []⟩) := by
  show Host.Outcome.next s.ruReadComplete = _
  unfold State.ruReadComplete
  rw [hf, hj]
  rfl

/-- Outside ABORTING a read ends in the write of the block, or in STORE_CHECK. -/
theorem Job.unitRead_eq {j : Job} {k : BlockInHand} (hp : j.phase ≠ .aborting) (hk : j.unit.block = some k) (data : Option Bytes) :
    j.unitRead data = j.blockRead k data := by
  unfold Job.unitRead
  rw [if_neg hp, hk]

/-- A read whose content is known: the write is requested. -/
theorem Job.blockRead_some {j : Job} {k : BlockInHand} {data : Option Bytes} {content : Bytes}
    (h : j.readContent k.work data = some content) :
    j.blockRead k data = { j with unit := { j.unit with
      block := some ⟨k.target, .writing, k.work⟩
      waiting := some (.write (storeIndex j.descriptor.targetFirst k.target) content) } } := by
  unfold Job.blockRead
  rw [h]
  rfl

/-- A failed check of a stream block is STORE_CHECK (R116). -/
theorem Job.blockRead_none {j : Job} {k : BlockInHand} {data : Option Bytes} (h : j.readContent k.work data = none) :
    j.blockRead k data = Job.reportFault ⟨.storeCheck, j.unit.itemSection, some k.target, none, 0⟩
      { j with unit := { j.unit with activity := .halted, block := none, waiting := none } } := by
  unfold Job.blockRead
  rw [h]
  rfl

/-! ### Edits -/

theorem Ring.getElem?_slice (ring : Ring) (place length k : Nat) :
    (ring.slice place length)[k]? = if k < length then ring.bytes[(place + 4096 - ring.head) % 4096 + k]? else none := by
  unfold Ring.slice
  rw [List.getElem?_take]
  split
  · rw [List.getElem?_drop]
  · rfl

theorem Ring.slice_length {ring : Ring} {place length : Nat} (h : (place + 4096 - ring.head) % 4096 + length ≤ ring.bytes.length) :
    (ring.slice place length).length = length := by
  unfold Ring.slice
  rw [List.length_take, List.length_drop]
  simp only [Config.ringBytes]
  omega

/-- An edit whose data lie in the ring and that lies in the block. -/
def Edit.Fits (ring : Ring) (e : Edit) : Prop :=
  e.offset + e.length ≤ 512 ∧ (e.place + 4096 - ring.head) % 4096 + e.length ≤ ring.bytes.length

/-- A run of edits, ascending and apart: each replaces its own bytes, and the bytes that none reaches are kept (R108). -/
theorem applyEdits_spec (ring : Ring) (edits : List Edit) : ∀ data : Bytes, data.length = 512 → (∀ e ∈ edits, e.Fits ring) →
    edits.Pairwise (fun a b => a.offset + a.length ≤ b.offset) →
    (applyEdits ring edits data).length = 512 ∧
      (∀ e ∈ edits, ∀ n, n < e.length →
        (applyEdits ring edits data)[e.offset + n]? = ring.bytes[(e.place + 4096 - ring.head) % 4096 + n]?) ∧
      ∀ i, (∀ e ∈ edits, ¬(e.offset ≤ i ∧ i < e.offset + e.length)) → (applyEdits ring edits data)[i]? = data[i]? := by
  induction edits with
  | nil => exact fun data hl _ _ => ⟨hl, fun e he => absurd he List.not_mem_nil, fun i _ => rfl⟩
  | cons e rest ih =>
    intro data hl hfits hpairs
    obtain ⟨hapart, hrest⟩ := List.pairwise_cons.mp hpairs
    have ⟨hin, hring⟩ := hfits e (List.mem_cons_self ..)
    obtain ⟨hlength, hedit⟩ := applyEdit_spec (ring := ring) (e := e) (by rw [hl]; exact hin) (Ring.slice_length hring)
    obtain ⟨hl', hown, hkept⟩ := ih (applyEdit ring data e) (hlength.trans hl) (fun e' he' => hfits e' (List.mem_cons_of_mem _ he')) hrest
    have hrun : applyEdits ring (e :: rest) data = applyEdits ring rest (applyEdit ring data e) := rfl
    rw [hrun]
    refine ⟨hl', fun e' he' n hn => ?_, fun i hi => ?_⟩
    · rcases List.mem_cons.mp he' with rfl | he'
      · have hclear : ∀ e'' ∈ rest, ¬(e''.offset ≤ e'.offset + n ∧ e'.offset + n < e''.offset + e''.length) := fun e'' he'' => by
          have := hapart e'' he''
          omega
        rw [hkept _ hclear, hedit, if_pos (by omega), Nat.add_sub_cancel_left, Ring.getElem?_slice, if_pos hn]
      · exact hown e' he' n hn
    · rw [hkept i fun e' he' => hi e' (List.mem_cons_of_mem _ he'), hedit, if_neg (hi e (List.mem_cons_self ..))]

/-- Settles O30: a read outside ABORTING by what the block in hand is for, a read in ABORTING, and the run of edits. -/
theorem ruReadCompletes : Obligations.RuReadCompletes := by
  unfold Obligations.RuReadCompletes
  refine ⟨fun s j i k hj hf hp hk => ?_, fun s j i hj hf hp => ?_, fun u item next stop h => ?_, Ring.getElem?_slice,
    fun ring edits data hl hfits hpairs => applyEdits_spec ring edits data hl hfits hpairs⟩
  · refine ⟨j.unitRead (s.store.readBlock i), exec_ruReadComplete hj hf, fun data hdata => ?_, fun hdata hwork => ?_,
      fun hdata hwork => ?_, fun f final hdata hwork hfill => ?_⟩
    all_goals rw [Job.unitRead_eq hp hk, hdata]
    · obtain ⟨target, step, work⟩ := k
      cases work with
      | skipped | ownData | holeFill | hostFill | ownCopy | ownSelf => exact Job.blockRead_some rfl
    · refine Job.blockRead_none ?_
      rcases hwork with ⟨e, hwork | hwork⟩ | ⟨t, hwork⟩
      · rw [hwork]
        rfl
      · rw [hwork]
        rfl
      · rw [hwork]
        rfl
    · rw [Job.blockRead_some (content := List.replicate 512 j.descriptor.fillByte) (by rw [hwork]; rfl), hwork]
    · rw [Job.blockRead_some (content := List.replicate 512 f.value) (by rw [hwork, Job.readContent, hfill]; rfl), hwork]
  · have hread : j.unitRead (s.store.readBlock i) =
        if j.unit.order = .stop then (j.mapUnit (fun u => { u with block := none })).unitStopped
        else j.mapUnit (fun u => { u with block := none }) := if_pos hp
    refine ⟨j.unitRead (s.store.readBlock i), exec_ruReadComplete hj hf, ?_⟩
    rw [hread]
    by_cases hstop : j.unit.order = .stop
    · rw [if_pos hstop]
      exact ⟨rfl, rfl, fun _ => ⟨rfl, rfl⟩, fun h => absurd hstop h⟩
    · rw [if_neg hstop]
      exact ⟨rfl, rfl, fun h => absurd h hstop, fun _ => rfl⟩
  · unfold ReconUnit.itemEdits ReconUnit.itemSection
    rw [h]
    exact ⟨rfl, rfl⟩

/-! ### Orders of JC -/

/-- After the quiescing notice no block follows (R117). -/
theorem Job.nextBlock_quiesce {j : Job} (h : j.unit.order = .quiesce) (c : CurrentItem) :
    j.nextBlock c = { j with unit := { j.unit with item := some { c with next := c.next + 1 }, block := none, activity := .halted } } := by
  unfold Job.nextBlock
  dsimp only [Job.mapUnit]
  rw [h]

/-- Settles O32: RU's quiescing notice and ABORT stop, VE's ABORT stop, and what RU does after the notice. -/
theorem unitsTakeOrders : Obligations.UnitsTakeOrders := by
  unfold Obligations.UnitsTakeOrders
  refine ⟨fun s j hj => ⟨fun h hp ho => ?_, fun h => ?_, fun h => ?_⟩, fun j c h => Job.nextBlock_quiesce h c⟩
  · refine congrArg Host.Outcome.next ((State.atJobWhen_of (p := fun j => j.signals.quiescing) _ hj h).trans ?_)
    refine congrArg (fun j => s.closeEvent ⟨j, []⟩) ?_
    unfold Job.takeQuiescing
    exact if_pos ⟨Or.inl hp, ho⟩
  · refine ⟨j.stopUnit (s.store.outstanding .ru),
      congrArg Host.Outcome.next (State.atJobWhen_of (p := fun j => j.signals.unitStop) _ hj h), ?_⟩
    have hitem : j.unit.activity = .verifyWait → (if j.unit.activity = .verifyWait then none else j.unit.item) = none := fun h => if_pos h
    unfold Job.stopUnit
    cases s.store.outstanding .ru with
    | false =>
      exact ⟨rfl, rfl, rfl, rfl, rfl, rfl, rfl, hitem, fun _ => ⟨rfl, rfl⟩, fun h => (by cases h)⟩
    | true => exact ⟨rfl, rfl, rfl, rfl, rfl, rfl, rfl, hitem, fun h => (by cases h), fun _ => ⟨rfl, rfl⟩⟩
  · exact congrArg Host.Outcome.next (State.atJobWhen_of (p := fun j => j.signals.verifierStop) _ hj h)

/-! ### The progress monitor -/

/-- The cause of a stall, as R120 lists it. -/
theorem Job.stallCause_eq (j : Job) :
    j.stallCause =
      if j.unit.activity = .verifyWait then .verifyWait
      else if j.queue = [] ∧ j.starved = true ∧ j.window.held? j.window.base = none ∧ 0 < j.window.heldCount then .gapWait
      else if j.queue = [] ∧ j.window.heldCount = 0 then .starved
      else if j.decoder.position = .seeking ∨ j.decoder.position = .endBody then .hunting
      else .other := by
  have hgap : (j.queue.isEmpty && j.starved && j.window.gap) = true ↔
      j.queue = [] ∧ j.starved = true ∧ j.window.held? j.window.base = none ∧ 0 < j.window.heldCount := by
    simp [Window.gap, and_assoc]
  have hnone : (j.queue.isEmpty && j.window.heldCount == 0) = true ↔ j.queue = [] ∧ j.window.heldCount = 0 := by simp
  have hhunting : (!j.decoder.position.inSection) = true ↔ j.decoder.position = .seeking ∨ j.decoder.position = .endBody := by
    cases j.decoder.position <;> decide
  unfold Job.stallCause
  simp only [hgap, hnone, hhunting]

/-- Settles O33: an expiry is one stall, with its cause. -/
theorem monitorExpiryPostsStall : Obligations.MonitorExpiryPostsStall := by
  unfold Obligations.MonitorExpiryPostsStall
  intro s j ms hj hmonitor hrun
  have hp := JobPhase.inRun_ne_aborting hrun
  have hexpire : exec .progressMonitorExpiry s = .next (s.closeEvent j.expireMonitor) :=
    congrArg Host.Outcome.next (State.atJobWhen_of (p := fun j => j.unit.monitor.isRunning) _ hj (by rw [hmonitor]; rfl))
  rw [hexpire, Job.expireMonitor, Job.count_counters, if_neg (show (j.mapUnit _).phase ≠ .aborting from hp), Job.stallCause_eq]
  rfl

/-! ### FILL -/

/-- The fields of FILL, in the order of their tests (R114, R184). -/
theorem readFill_spec (frontier : Nat) (body : Bytes) :
    let first := field body 0 2
    let count := field body 2 2
    let mode := field body 4 1
    let final := field body 6 1
    (¬(1 ≤ count ∧ first + count ≤ frontier) → readFill frontier body = .error 2) ∧
    (1 ≤ count → first + count ≤ frontier →
      (1 < mode → readFill frontier body = .error 3) ∧
      (mode ≤ 1 → 1 < final → readFill frontier body = .error 5) ∧
      (mode ≤ 1 → final ≤ 1 → readFill frontier body = .ok ⟨first, count, if mode = 0 then .carry else .byte,
        BitVec.ofNat 8 (field body 5 1), decide (final = 1), first, 0⟩)) := by
  intro first count mode final
  unfold readFill
  dsimp only
  refine ⟨fun h => if_pos (by omega), fun h1 h2 => ⟨fun h3 => ?_, fun h3 h4 => ?_, fun h3 h4 => ?_⟩⟩
  · rw [if_neg (by omega), if_pos h3]
  · rw [if_neg (by omega), if_neg (by omega), if_pos h4]
  · rw [if_neg (by omega), if_neg (by omega), if_neg (by omega)]

/-- An operation that FILL reads starts at its first block and lies below F. -/
theorem readFill_ok {frontier : Nat} {body : Bytes} {f : FillOperation} (h : readFill frontier body = .ok f) :
    f.filled = 0 ∧ f.next = f.first ∧ 1 ≤ f.count ∧ f.first + f.count ≤ frontier := by
  obtain ⟨hrange, hinside⟩ := readFill_spec frontier body
  by_cases hr : 1 ≤ field body 2 2 ∧ field body 0 2 + field body 2 2 ≤ frontier
  · obtain ⟨hmode, hfinal, hok⟩ := hinside hr.1 hr.2
    by_cases hm : field body 4 1 ≤ 1
    · by_cases hf : field body 6 1 ≤ 1
      · cases h.symm.trans (hok hm hf)
        exact ⟨rfl, rfl, hr⟩
      · cases h.symm.trans (hfinal hm (by omega))
    · cases h.symm.trans (hmode (by omega))
  · cases h.symm.trans (hrange hr)

/-- An accepted FILL in READY. -/
theorem State.Accepts.exec_fill {s : State} {j : Job} {tag : Byte} {body : Bytes} (h : s.Accepts tag 0x32 body) (hj : s.job = some j)
    (hp : j.phase = .ready) :
    exec (.fill tag body) s = .next ((s.entered tag 0x32).withFields tag (readFill j.tracker.frontier body) (fun f s =>
      ((s.reply tag .started .empty).settleWork (j.beginFill f)).arbitrate)).transmit := by
  rw [exec_request ⟨rfl, rfl⟩, h.request_eq]
  show Host.Outcome.next (State.fill tag body (s.entered tag 0x32)).transmit = _
  unfold State.fill
  rw [State.atJobState_ready tag _ ((s.entered_job tag 0x32).trans hj) hp]

/-- RU goes on with a FILL at a block, with its first transaction as the mode gives (R115). -/
theorem Work.continueFill_at {f : FillOperation} {w : Work} {b : Nat} (h : f.nextBlock w.job.tracker = some b) :
    w.continueFill f = ⟨{ w.job with unit := { w.job.unit with
      fill := some { f with next := b }
      block := some ⟨b, stepOf (w.job.fillRequest f b), .hostFill f.final⟩
      waiting := some (w.job.fillRequest f b) } }, w.notices⟩ := by
  unfold Work.continueFill
  rw [h]
  dsimp only [Work.map, Job.mapUnit]
  rw [ReconUnit.startBlock_eq]

/-- A FILL with no block left ends: in SERVICING the job is READY again and FILL_DONE is posted (R15, R115). -/
theorem Work.continueFill_ends {f : FillOperation} {w : Work} (h : f.nextBlock w.job.tracker = none) (hp : w.job.phase = .servicing) :
    w.continueFill f = ⟨{ w.job with phase := .ready, unit := { w.job.unit with activity := .idle, block := none, fill := none } },
      w.notices ++ [.fillDone w.job.descriptor.jobId f.filled]⟩ := by
  unfold Work.continueFill
  rw [h]
  exact if_pos hp

/-- Settles O34: the fields by their tests, and RU at the first block of the range that FILL does not pass over. -/
theorem fillStarts : Obligations.FillStarts := by
  unfold Obligations.FillStarts
  refine ⟨readFill_spec, fun tag body s j haccepts hj hp => ⟨fun number herror => ?_, fun f hf => ?_⟩⟩
  · rw [haccepts.exec_fill hj hp, herror, State.withFields_error]
    rfl
  · have ⟨hfilled, hnext, hcount, hbound⟩ := readFill_ok hf
    refine ⟨hfilled, hnext, hcount, hbound, j.beginFill f, ?_, fun hnone => ?_, fun b hb1 hb2 hb hbefore => ?_⟩
    · rw [haccepts.exec_fill hj hp, hf, State.withFields_ok]
    · have hleft : f.nextBlock j.tracker = none := FillOperation.nextBlock_none (by rw [hnext]; exact hnone)
      have hends := Work.continueFill_ends
        (w := quietly (fun j => { j with phase := .servicing }.mapUnit (fun u => { u with activity := .fill })) j) hleft rfl
      rw [hfilled] at hends
      exact hends
    · have hat : f.nextBlock j.tracker = some b :=
        FillOperation.nextBlock_first (by rw [hnext]; exact hb1) hb2 hb (by rw [hnext]; exact hbefore)
      have hstarts := Work.continueFill_at
        (w := quietly (fun j => { j with phase := .servicing }.mapUnit (fun u => { u with activity := .fill })) j) hat
      rw [Job.fillRequest_eq] at hstarts
      have hstarts : j.beginFill f = _ := hstarts
      rw [hstarts]
      exact ⟨rfl, rfl, rfl⟩

end Sys2Proof.Machine
end

section
/-! RU's write completion (R109 to R118, R129): what it leaves of CT and VE in every case, and, where VE holds no task and nothing waits
at SD, the whole event by what the block in hand is for. -/

namespace Sys2Proof.Machine

/-! ### What RU's going on leaves of CT and VE -/

theorem Work.advance_frame (k : BlockInHand) (w : Work) :
    (w.advance k).job.tracker = w.job.tracker ∧ (w.advance k).job.verifier = w.job.verifier := by
  have hitem (c : CurrentItem) (j : Job) : (j.advanceItem c).tracker = j.tracker ∧ (j.advanceItem c).verifier = j.verifier := by
    unfold Job.advanceItem
    split
    · obtain ⟨unit, phase, record, quiet, signals, he⟩ := j.worked_nextBlock c
      rw [he]
      exact ⟨rfl, rfl⟩
    · split
      · exact ⟨rfl, rfl⟩
      all_goals
        unfold Job.finishHoleItem
        split
        · split
          · exact ⟨rfl, rfl⟩
          · unfold Job.recordEnd
            split
            · exact ⟨rfl, rfl⟩
            · exact ⟨rfl, rfl⟩
        all_goals exact ⟨rfl, rfl⟩
  unfold Work.advance
  split
  · next f _ _ =>
    obtain ⟨unit, phase, he, _, _⟩ := Work.continueFill_frame { f with next := k.target + 1, filled := f.filled + 1 } w
    rw [he]
    exact ⟨rfl, rfl⟩
  · exact ⟨rfl, rfl⟩
  · exact hitem _ _
  · exact ⟨rfl, rfl⟩

theorem Job.endWrite_frame (j : Job) : j.endWrite.tracker = j.tracker ∧ j.endWrite.verifier = j.verifier := by
  unfold Job.endWrite
  obtain ⟨_, _, _, _, _, _, _, _, he⟩ := Job.decoded_wakeDecoder (if j.unit.order = .stop then j.unitStopped else j)
  rw [he]
  split
  · exact ⟨rfl, rfl⟩
  · exact ⟨rfl, rfl⟩

/-- The report that CT takes of a completed write: a write report or a fill report (R109). -/
def BlockInHand.report (k : BlockInHand) (t : Tracker) : Account :=
  match k.work with
  | .skipped _ | .ownCopy _ | .ownData => t.writeReport k.target false
  | .ownSelf tainted => t.writeReport k.target tainted
  | .holeFill => t.fillReport k.target false
  | .hostFill final => t.fillReport k.target final

theorem Work.reportBlock_eq (k : BlockInHand) (w : Work) : w.reportBlock k = w.account (k.report w.job.tracker) := by
  unfold Work.reportBlock BlockInHand.report
  cases k.work <;> rfl

/-- The state that a completed write gives its block (R26, R27). -/
theorem BlockInHand.report_state {k : BlockInHand} {t : Tracker} (h : k.target < t.map.length) :
    (k.report t).tracker.state k.target = match k.work with
      | .skipped _ | .ownCopy _ | .ownData => .written
      | .ownSelf tainted => if tainted then .suspect else .written
      | .holeFill => .carried
      | .hostFill final => if final then .waived else .carried := by
  have hwrite (tainted : Bool) : (t.writeReport k.target tainted).tracker.state k.target = if tainted then .suspect else .written := by
    rw [(t.writeReport_listOnly k.target tainted).state, Tracker.state_written h, if_pos rfl]
  have hfill (final : Bool) : (t.fillReport k.target final).tracker.state k.target = if final then .waived else .carried := by
    rw [(t.fillReport_listOnly k.target final).state, Tracker.state_setState h, if_pos rfl]
  unfold BlockInHand.report
  cases k.work with
  | skipped | ownCopy | ownData => exact hwrite false
  | ownSelf tainted => exact hwrite tainted
  | holeFill => exact hfill false
  | hostFill final => exact hfill final

/-- What the parts of a write completion at RU, VE, the monitor and the counters leave of CT. -/
theorem Work.written_tracker (k : BlockInHand) (o : Bool) (w : Work) : (w.written k o).job.tracker = (k.report w.job.tracker).tracker := by
  have hcarry (j : Job) : (j.recordCarry k).tracker = j.tracker := by
    unfold Job.recordCarry
    cases k.work <;> rfl
  unfold Work.written
  rw [Work.reportBlock_eq, Work.account_eq]
  dsimp only [Work.map, Job.mapUnit]
  obtain ⟨verifier, unit, he⟩ := Job.verified_cancelTasks k.target o { w.job with tracker := (k.report w.job.tracker).tracker }
  rw [hcarry, Job.count_counters, he, Job.restartMonitor_eq]

/-- The tasks after a hand-off: those before it, or with RU's own task at the tail while RU was in VERIFY_WAIT (R125). -/
theorem Job.handOff_tasks (j : Job) :
    j.handOff.verifier.tasks = j.verifier.tasks ∨
      j.unit.activity = .verifyWait ∧ ∃ t, j.unit.item.bind (fun c => c.item.task?) = some t ∧
        j.handOff.verifier.tasks = j.verifier.tasks ++ [t] := by
  unfold Job.handOff
  split
  · next t hwait htask =>
    split
    · exact Or.inr ⟨hwait, t, htask, rfl⟩
    · exact Or.inl rfl
  · exact Or.inl rfl

/-- The tasks after a write to a block: those that do not cover it, and RU's own task where it is handed over (R125, R129). -/
theorem Job.cancelTasks_tasks (b : Nat) (o : Bool) (j : Job) :
    (j.cancelTasks b o).verifier.tasks = j.verifier.tasks.filter (fun t => !t.covers b) ∨
      j.unit.activity = .verifyWait ∧ ∃ t, j.unit.item.bind (fun c => c.item.task?) = some t ∧
        (j.cancelTasks b o).verifier.tasks = j.verifier.tasks.filter (fun t => !t.covers b) ++ [t] := by
  have hcancel : (j.mapVerifier (Verifier.cancel b o)).verifier.tasks = j.verifier.tasks.filter (fun t => !t.covers b) := by
    show (j.verifier.cancel b o).tasks = _
    unfold Verifier.cancel
    dsimp only
    split
    · rfl
    · rfl
  have hbegin : (j.cancelTasks b o).verifier.tasks = (j.mapVerifier (Verifier.cancel b o)).handOff.verifier.tasks :=
    Verifier.beginTask_tasks _ _ _
  rw [hbegin, ← hcancel]
  exact (j.mapVerifier (Verifier.cancel b o)).handOff_tasks

theorem Work.written_tasks (k : BlockInHand) (o : Bool) (w : Work) :
    (w.written k o).job.verifier.tasks = w.job.verifier.tasks.filter (fun t => !t.covers k.target) ∨
      w.job.unit.activity = .verifyWait ∧ ∃ t, w.job.unit.item.bind (fun c => c.item.task?) = some t ∧
        (w.written k o).job.verifier.tasks = w.job.verifier.tasks.filter (fun t => !t.covers k.target) ++ [t] := by
  have hcarry (j : Job) : (j.recordCarry k).verifier = j.verifier := by
    unfold Job.recordCarry
    cases k.work <;> rfl
  have hverifier : (w.written k o).job.verifier =
      (Job.cancelTasks k.target o { w.job with tracker := (k.report w.job.tracker).tracker }).verifier := by
    unfold Work.written
    rw [Work.reportBlock_eq, Work.account_eq]
    dsimp only [Work.map, Job.mapUnit]
    rw [hcarry, Job.count_counters, Job.restartMonitor_eq]
  rw [hverifier]
  exact Job.cancelTasks_tasks k.target o { w.job with tracker := (k.report w.job.tracker).tracker }

/-- CT and VE after a write completion are as its first part leaves them. -/
theorem Work.unitWrite_frame {w : Work} {k : BlockInHand} (h : w.job.unit.block = some k) (o : Bool) :
    (w.unitWrite o).job.tracker = (w.written k o).job.tracker ∧ (w.unitWrite o).job.verifier = (w.written k o).job.verifier := by
  rw [Work.unitWrite_eq h]
  obtain ⟨htracker, hverifier⟩ := Work.advance_frame k (w.written k o)
  obtain ⟨htracker', hverifier'⟩ := Job.endWrite_frame ((w.written k o).advance k).job
  exact ⟨htracker'.trans htracker, hverifier'.trans hverifier⟩

/-! ### A write completion with VE empty and nothing waiting at SD -/

/-- The carry table after a completed write (R111). -/
def Job.carryAfter (k : BlockInHand) (j : Job) : List Int :=
  match k.work with
  | .skipped e | .ownCopy e => j.unit.carry.set (k.target % j.descriptor.bandWidth) e
  | .ownSelf _ | .ownData | .holeFill | .hostFill _ => j.unit.carry

theorem Job.recordCarry_eq (k : BlockInHand) (j : Job) :
    j.recordCarry k = { j with unit := { j.unit with carry := j.carryAfter k } } := by
  unfold Job.recordCarry Job.carryAfter
  cases k.work <;> rfl

/-- The monitor after a completed write (R119). -/
def Job.writeMonitor (j : Job) : Monitor :=
  if j.phase.inRun = true ∧ j.unit.monitor ≠ .stopped then .running (j.descriptor.progressPeriod * 100) else j.unit.monitor

/-- The counters after a completed write (R4, R18). -/
def Job.writeCounters (work : BlockWork) (j : Job) : JobCounters :=
  if j.phase = .aborting then j.counters else j.counters.add work.counter 1

/-- The job after a completed write, before RU's work in hand goes on. -/
def Job.writtenWith (k : BlockInHand) (j : Job) : Job :=
  { j with
    tracker := (k.report j.tracker).tracker
    counters := j.writeCounters k.work
    unit := { j.unit with monitor := j.writeMonitor, carry := j.carryAfter k, block := none } }

/-- The notices of a report. -/
def Job.reportNotices (j : Job) (a : Account) : List Notice :=
  if j.phase = .aborting then [] else overflowNotices j.descriptor.jobId a.overflowed

theorem Work.written_eq {j : Job} (htasks : j.verifier.tasks = []) (hwait : j.unit.activity ≠ .verifyWait) (k : BlockInHand) :
    (Work.mk j []).written k false = ⟨j.writtenWith k, j.reportNotices (k.report j.tracker)⟩ := by
  unfold Work.written
  rw [Work.reportBlock_eq, Work.account_eq]
  dsimp only [Work.map]
  rw [Job.cancelTasks_nothing (j := { j with tracker := (k.report j.tracker).tracker }) htasks hwait, Job.restartMonitor_eq,
    Job.count_counters, Job.recordCarry_eq]
  rfl

/-- The end of a write completion at a SD with nothing waiting: RU's report after its ABORT stop. -/
theorem Job.endWrite_eq {j : Job} (h1 : j.decoder.waitingOutput = []) (h2 : j.decoder.waitingBytes = []) :
    j.endWrite = if j.unit.order = .stop then j.unitStopped else j := by
  unfold Job.endWrite
  split
  · exact Job.wakeDecoder_nothing h1 h2
  · exact Job.wakeDecoder_nothing h1 h2

/-- RU's work in hand after the completed write of one of its item's blocks. -/
theorem Work.advance_item {w : Work} {k : BlockInHand} {c : CurrentItem} (hk : ∀ final, k.work ≠ .hostFill final)
    (hc : w.job.unit.item = some c) : w.advance k = w.map (Job.advanceItem c) := by
  unfold Work.advance
  rw [hc]
  cases hw : k.work with
  | hostFill final => exact absurd hw (hk final)
  | skipped | ownCopy | ownSelf | ownData | holeFill => rfl

/-- A FILL that its ABORT stop has ended is not gone on with. -/
theorem Work.advance_noFill {w : Work} {k : BlockInHand} {final : Bool} (hk : k.work = .hostFill final) (hf : w.job.unit.fill = none) :
    w.advance k = w := by
  unfold Work.advance
  rw [hk, hf]

/-- RU goes on with a FILL (R115). -/
theorem Work.advance_fill {w : Work} {k : BlockInHand} {final : Bool} {f : FillOperation} (hk : k.work = .hostFill final)
    (hf : w.job.unit.fill = some f) : w.advance k = w.continueFill { f with next := k.target + 1, filled := f.filled + 1 } := by
  unfold Work.advance
  rw [hk, hf]

/-- The last block of an item: the item is finished. -/
theorem Job.advanceItem_last {j : Job} {c : CurrentItem} (h : c.stop ≤ c.next + 1) :
    j.advanceItem c = match c.item with
      | .block i => j.finishBlockItem i
      | .sectionBegin _ | .imageEnd _ | .sectionEnd _ _ _ _ | .abandon => j.finishHoleItem c.item :=
  if_neg (Nat.not_lt.mpr h)

/-- The own block of an item is written: the item is finished, its ring bytes are freed, and the displacement becomes the directive's. -/
theorem Job.finishBlockItem_eq (i : BlockItem) (j : Job) :
    j.finishBlockItem i = { j with
      ring := ⟨(j.ring.head + i.ringHeld) % 4096, j.ring.bytes.drop i.ringHeld⟩
      unit := { j.unit with
        activity := .idle
        item := none
        block := none
        displacement := match i.directive with
          | .copyNew e => some e
          | .copyKeep => j.unit.displacement
          | .self _ | .literal _ | .fill _ => none } } := by
  unfold Job.finishBlockItem
  cases i.directive <;> rfl

/-- Any other block of an item is followed by the next. -/
theorem Job.advanceItem_more {j : Job} {c : CurrentItem} (h : c.next + 1 < c.stop) : j.advanceItem c = j.nextBlock c := if_pos h

/-- RU's next block of an item in work. -/
theorem Job.nextBlock_work {j : Job} (h : j.unit.order = .work) (c : CurrentItem) :
    j.nextBlock c = Job.startItemBlock { c with next := c.next + 1 }
      { j with unit := { j.unit with item := some { c with next := c.next + 1 }, block := none } } := by
  unfold Job.nextBlock
  dsimp only [Job.mapUnit]
  rw [h]

/-- After the quiescing notice or the ABORT stop no block follows (R117, R118). -/
theorem Job.nextBlock_halts {j : Job} (h : j.unit.order ≠ .work) (c : CurrentItem) :
    j.nextBlock c = { j with unit := { j.unit with
      item := some { c with next := c.next + 1 }, block := none, activity := .halted } } := by
  unfold Job.nextBlock
  dsimp only [Job.mapUnit]
  cases ho : j.unit.order with
  | work => exact absurd ho h
  | quiesce | stop => rfl

/-- A report to JC leaves RU and SD as they are. -/
theorem Job.reportFault_units (r : FaultRecord) (j : Job) : (j.reportFault r).unit = j.unit ∧ (j.reportFault r).decoder = j.decoder := by
  obtain ⟨_, _, _, _, _, he, _⟩ := j.reportFault_frame r
  rw [he]
  exact ⟨rfl, rfl⟩

/-- The last hole block of an IMAGE_END: its digest is recorded, unless RU has stopped (R103). -/
theorem Job.finishHoleItem_imageEnd {j : Job} (h : j.unit.order ≠ .stop → j.phase ≠ .aborting) (digest : Word32) :
    j.finishHoleItem (.imageEnd digest) = { j with
      endRecord := if j.unit.order = .stop then j.endRecord else ⟨true, some digest⟩
      ring := ⟨j.ring.head % 4096, j.ring.bytes⟩
      unit := { j.unit with activity := .idle, item := none, block := none } } := by
  unfold Job.finishHoleItem Job.recordEnd
  dsimp only
  split
  · rfl
  · next horder =>
    rw [if_neg (h horder)]
    rfl

/-- RU's report to JC at the end of a write completion, after its ABORT stop (R118). -/
def Job.ended (order : UnitOrder) (j : Job) : Job :=
  if order = .stop then { j with unitClear := true, unit := { j.unit with block := none, waiting := none } } else j

theorem Job.endWrite_ended {j : Job} (h1 : j.decoder.waitingOutput = []) (h2 : j.decoder.waitingBytes = [])
    (ha : j.unit.activity = .idle ∨ j.unit.activity = .halted) : j.endWrite = j.ended j.unit.order := by
  rw [Job.endWrite_eq h1 h2, Job.ended]
  have hstopped : j.unitStopped = { j with unitClear := true, unit := { j.unit with block := none, waiting := none } } := by
    obtain ⟨_, _, _, _, _, _, _, _, _, _, _, _, _, _, unit, _, _⟩ := j
    obtain ⟨activity, _, _, _, _, _, _, _, _⟩ := unit
    rcases ha with ha | ha
    · cases ha
      rfl
    · cases ha
      rfl
  rw [hstopped]

theorem Job.endWrite_kept {j : Job} (h1 : j.decoder.waitingOutput = []) (h2 : j.decoder.waitingBytes = []) (ho : j.unit.order ≠ .stop) :
    j.endWrite = j := by
  rw [Job.endWrite_eq h1 h2, if_neg ho]

/-- The end of a FILL's block after RU's ABORT stop (R118). -/
theorem Job.endWrite_fill {j : Job} (h1 : j.decoder.waitingOutput = []) (h2 : j.decoder.waitingBytes = []) (ho : j.unit.order = .stop)
    (ha : j.unit.activity = .fill) :
    j.endWrite = { j with unitClear := true, unit := { j.unit with activity := .idle, block := none, waiting := none } } := by
  rw [Job.endWrite_eq h1 h2, if_pos ho, Job.unitStopped, ha]

/-- The start of a block leaves SD and RU's order as they are, so that the completion's end adds nothing to it. -/
theorem Job.startItemBlock_endWrite {j : Job} (h1 : j.decoder.waitingOutput = []) (h2 : j.decoder.waitingBytes = [])
    (ho : j.unit.order ≠ .stop) (c : CurrentItem) : (j.startItemBlock c).endWrite = j.startItemBlock c := by
  have hstart : (j.startItemBlock c).unit.order = j.unit.order ∧ (j.startItemBlock c).decoder = j.decoder := by
    unfold Job.startItemBlock
    split
    · split
      · exact ⟨rfl, rfl⟩
      · rw [Job.unitFault_eq]
        obtain ⟨hunit, hdecoder⟩ := Job.reportFault_units _ _
        exact ⟨(congrArg ReconUnit.order hunit).trans rfl, hdecoder⟩
    all_goals exact ⟨rfl, rfl⟩
  obtain ⟨horder, hdecoder⟩ := hstart
  exact Job.endWrite_kept (by rw [hdecoder]; exact h1) (by rw [hdecoder]; exact h2) (by rw [horder]; exact ho)

/-- RU starts a hole block (R112). -/
theorem Job.startItemBlock_hole {item : Item} (h : (∃ start, item = .sectionBegin start) ∨ (∃ digest, item = .imageEnd digest))
    (j : Job) (next stop : Nat) :
    j.startItemBlock ⟨item, next, stop⟩ = { j with unit := { j.unit with
      block := some ⟨next, stepOf (j.holeOpOf next), .holeFill⟩, waiting := some (j.holeOpOf next) } } := by
  rw [← Job.holeRequest_eq]
  rcases h with ⟨start, rfl⟩ | ⟨digest, rfl⟩
  all_goals exact congrArg (fun u => { j with unit := u }) (ReconUnit.startBlock_eq next .holeFill (j.holeRequest next) j.unit)

/-- RU's next block of an item in work, to the completion's end. -/
theorem Job.nextBlock_endWrite_work {j : Job} (h1 : j.decoder.waitingOutput = []) (h2 : j.decoder.waitingBytes = [])
    (ho : j.unit.order = .work) (c : CurrentItem) :
    (j.nextBlock c).endWrite = Job.startItemBlock { c with next := c.next + 1 }
      { j with unit := { j.unit with item := some { c with next := c.next + 1 }, block := none } } := by
  rw [Job.nextBlock_work ho]
  apply Job.startItemBlock_endWrite
  · exact h1
  · exact h2
  · exact fun h => nomatch ho.symm.trans h

/-- RU's halt before the next block of an item, to the completion's end. -/
theorem Job.nextBlock_endWrite_halts {j : Job} (h1 : j.decoder.waitingOutput = []) (h2 : j.decoder.waitingBytes = [])
    (ho : j.unit.order ≠ .work) (c : CurrentItem) :
    (j.nextBlock c).endWrite = Job.ended j.unit.order { j with unit := { j.unit with
      item := some { c with next := c.next + 1 }, block := none, activity := .halted } } := by
  rw [Job.nextBlock_halts ho]
  apply Job.endWrite_ended
  · exact h1
  · exact h2
  · exact Or.inr rfl

/-- Where VE holds no task and RU is not in VERIFY_WAIT, a write completion is the job written, RU going on, and the end. -/
theorem Work.unitWrite_quiet {j : Job} {k : BlockInHand} (hk : j.unit.block = some k) (htasks : j.verifier.tasks = [])
    (hwait : j.unit.activity ≠ .verifyWait) :
    (Work.mk j []).unitWrite false =
      ((⟨j.writtenWith k, j.reportNotices (k.report j.tracker)⟩ : Work).advance k).map Job.endWrite := by
  rw [Work.unitWrite_eq (w := ⟨j, []⟩) hk, Work.written_eq htasks hwait]

/-- RU goes on with the item that the block written is a block of. -/
theorem Work.unitWrite_item {j : Job} {k : BlockInHand} {c : CurrentItem} (hk : j.unit.block = some k) (htasks : j.verifier.tasks = [])
    (hwait : j.unit.activity ≠ .verifyWait) (hwork : ∀ final, k.work ≠ .hostFill final) (hc : j.unit.item = some c) :
    (Work.mk j []).unitWrite false = ⟨((j.writtenWith k).advanceItem c).endWrite, j.reportNotices (k.report j.tracker)⟩ := by
  rw [Work.unitWrite_quiet hk htasks hwait, Work.advance_item (w := ⟨j.writtenWith k, _⟩) hwork hc]
  rfl

/-- Settles O31: the store takes the bytes; CT and VE are as the first part of the completion leaves them; and RU goes on with its item or
its FILL, or stops. -/
theorem ruWriteCompletes : Obligations.RuWriteCompletes := by
  unfold Obligations.RuWriteCompletes
  refine ⟨fun s j i content hj hf => ?_, fun j k hk htarget => ?_, fun j k hk htasks h1 h2 => ?_⟩
  · show Host.Outcome.next s.ruWriteComplete = _
    unfold State.ruWriteComplete
    rw [hf, hj]
    rfl
  · intro after
    obtain ⟨htracker, hverifier⟩ := Work.unitWrite_frame (w := ⟨j, []⟩) hk false
    have hafter : after.tracker = (k.report j.tracker).tracker := htracker.trans (Work.written_tracker k false ⟨j, []⟩)
    have htasks := Work.written_tasks k false ⟨j, []⟩
    rw [← hverifier] at htasks
    refine ⟨?_, fun t ht => ?_, fun hwait t ht => ?_⟩
    · rw [hafter]
      exact BlockInHand.report_state htarget
    · rcases htasks with htasks | ⟨_, t', ht', htasks⟩
      · rw [htasks] at ht
        exact Or.inl (List.mem_filter.mp ht).1
      · rw [htasks] at ht
        rcases List.mem_append.mp ht with ht | ht
        · exact Or.inl (List.mem_filter.mp ht).1
        · rw [List.mem_singleton.mp ht]
          exact Or.inr ht'.symm
    · rcases htasks with htasks | ⟨hwait', _⟩
      · rw [htasks] at ht
        simpa using (List.mem_filter.mp ht).2
      · exact absurd hwait' hwait
  · intro building monitor written filled notices ends column
    refine ⟨fun item hbuilding hitem hact hwork => ?_, fun item e stop hbuilding hitem hmore hact hwork => ?_,
      fun item stop hbuilding hitem hact hwork hkind => ?_, fun final hp ho hfill hact hwork => ?_,
      fun f final hp ho hfill hact hwork => ?_⟩
    · have hwait : j.unit.activity ≠ .verifyWait := fun h => by cases hact.symm.trans h
      have hown (hhost : ∀ final, k.work ≠ .hostFill final) :
          (Work.mk j []).unitWrite false =
            ⟨Job.ended j.unit.order ((j.writtenWith k).finishBlockItem item), j.reportNotices (k.report j.tracker)⟩ := by
        rw [Work.unitWrite_item hk htasks hwait hhost hitem, Job.advanceItem_last (Nat.le_refl _)]
        exact congrArg (fun j' => (⟨j', _⟩ : Work))
          (Job.endWrite_ended (j := (j.writtenWith k).finishBlockItem item) h1 h2 (Or.inl rfl))
      rw [Job.finishBlockItem_eq] at hown
      obtain ⟨target, step, work⟩ := k
      rcases hwork with ⟨e, hwork⟩ | hwork | ⟨tainted, hwork⟩
      · cases hwork
        exact hown (fun _ h => nomatch h)
      · cases hwork
        exact hown (fun _ h => nomatch h)
      · cases hwork
        cases tainted
        · exact hown (fun _ h => nomatch h)
        · exact hown (fun _ h => nomatch h)
    · have hwait : j.unit.activity ≠ .verifyWait := fun h => by cases hact.symm.trans h
      obtain ⟨target, step, work⟩ := k
      cases hwork
      have hnext := Work.unitWrite_item hk htasks hwait (fun _ h => nomatch h) hitem
      rw [Job.advanceItem_more hmore] at hnext
      refine ⟨fun horder => hnext.trans (congrArg (fun j' => (⟨j', _⟩ : Work)) ?_),
        fun horder => hnext.trans (congrArg (fun j' => (⟨j', _⟩ : Work)) ?_)⟩
      · exact (Job.nextBlock_endWrite_work (j := j.writtenWith _) h1 h2 horder _).trans
          (Job.startItemBlock_block _ item (target + 1) stop)
      · exact Job.nextBlock_endWrite_halts (j := j.writtenWith _) h1 h2 horder _
    · have hwait : j.unit.activity ≠ .verifyWait := fun h => by cases hact.symm.trans h
      obtain ⟨target, step, work⟩ := k
      cases hwork
      have hnext := Work.unitWrite_item hk htasks hwait (fun _ h => nomatch h) hitem
      refine ⟨fun hmore horder => ?_, fun hmore horder => ?_, fun hlast => ?_⟩
      · rw [Job.advanceItem_more hmore] at hnext
        refine hnext.trans (congrArg (fun j' => (⟨j', _⟩ : Work)) ?_)
        exact (Job.nextBlock_endWrite_work (j := j.writtenWith _) h1 h2 horder _).trans
          (Job.startItemBlock_hole hkind _ (target + 1) stop)
      · rw [Job.advanceItem_more hmore] at hnext
        refine hnext.trans (congrArg (fun j' => (⟨j', _⟩ : Work)) ?_)
        exact Job.nextBlock_endWrite_halts (j := j.writtenWith _) h1 h2 horder _
      · rw [Job.advanceItem_last hlast] at hnext
        refine hnext.trans (congrArg (fun j' => (⟨j', _⟩ : Work)) ?_)
        rcases hkind with ⟨start, rfl⟩ | ⟨digest, rfl⟩
        · exact Job.endWrite_ended (j := (j.writtenWith ⟨target, step, .holeFill⟩).finishItem (.sectionBegin start)) h1 h2 (Or.inl rfl)
        · have hphase : j.unit.order ≠ .stop → j.phase ≠ .aborting := by
            intro horder
            cases ho : j.unit.order with
            | work =>
              simp only [building, ho] at hbuilding
              exact hbuilding.elim JobPhase.inRun_ne_aborting (fun hp h => nomatch hp.symm.trans h)
            | quiesce =>
              simp only [building, ho] at hbuilding
              exact fun h => nomatch hbuilding.symm.trans h
            | stop => exact absurd ho horder
          rw [show Job.finishHoleItem (.imageEnd digest) _ = _ from
            Job.finishHoleItem_imageEnd (j := j.writtenWith ⟨target, step, .holeFill⟩) hphase digest]
          exact Job.endWrite_ended (j := { j.writtenWith ⟨target, step, .holeFill⟩ with
            endRecord := if j.unit.order = .stop then j.endRecord else ⟨true, some digest⟩
            ring := ⟨j.ring.head % 4096, j.ring.bytes⟩
            unit := { (j.writtenWith ⟨target, step, .holeFill⟩).unit with activity := .idle, item := none, block := none } })
            h1 h2 (Or.inl rfl)
    · have hwait : j.unit.activity ≠ .verifyWait := fun h => by cases hact.symm.trans h
      obtain ⟨target, step, work⟩ := k
      cases hwork
      rw [Work.unitWrite_quiet hk htasks hwait, Work.advance_noFill (w := ⟨j.writtenWith _, _⟩) rfl hfill]
      have hmonitor : j.writeMonitor = j.unit.monitor := if_neg (by rw [hp]; exact fun h => nomatch h.1)
      have hcounters : j.writeCounters (.hostFill final) = j.counters := if_pos hp
      refine congrArg₂ Work.mk ((Job.endWrite_fill (j := j.writtenWith ⟨target, step, .hostFill final⟩) h1 h2 ho hact).trans ?_) (if_pos hp)
      simp only [Job.writtenWith, hmonitor, hcounters]
      rfl
    · intro report
      have hwait : j.unit.activity ≠ .verifyWait := fun h => by cases hact.symm.trans h
      have horder : j.unit.order ≠ .stop := fun h => nomatch ho.symm.trans h
      have hmonitor : j.writeMonitor = j.unit.monitor := if_neg (by rw [hp]; exact fun h => nomatch h.1)
      obtain ⟨target, step, work⟩ := k
      cases hwork
      have hgoes := Work.unitWrite_quiet hk htasks hwait
      rw [Work.advance_fill (w := ⟨j.writtenWith _, _⟩) rfl hfill] at hgoes
      refine ⟨fun b hb1 hb2 hb hbefore => ?_, fun hnone => ?_⟩
      · have hnext : FillOperation.nextBlock { f with next := target + 1, filled := f.filled + 1 } report.tracker = some b :=
          FillOperation.nextBlock_first hb1 hb2 hb hbefore
        rw [Work.continueFill_at hnext, Job.fillRequest_eq] at hgoes
        refine hgoes.trans (congrArg (fun j' => (⟨j', _⟩ : Work)) ?_)
        refine (Job.endWrite_kept ?_ ?_ ?_).trans ?_
        · exact h1
        · exact h2
        · exact horder
        · simp only [Job.writtenWith, hmonitor]
          rfl
      · have hnext : FillOperation.nextBlock { f with next := target + 1, filled := f.filled + 1 } report.tracker = none :=
          FillOperation.nextBlock_none hnone
        rw [Work.continueFill_ends hnext hp] at hgoes
        refine hgoes.trans (congrArg (fun j' => (⟨j', _⟩ : Work)) ?_)
        refine (Job.endWrite_kept ?_ ?_ ?_).trans ?_
        · exact h1
        · exact h2
        · exact horder
        · simp only [Job.writtenWith, hmonitor]
          rfl

end Sys2Proof.Machine
end

section
/-! VE's tasks (R124 to R130): a read of the task in progress, a task's end, the hand-off of RU's own task, the next task, and the
cancelling of tasks by a write. -/

namespace Sys2Proof.Machine

/-! ### VE's read completes -/

/-- VE's read completes at a job. -/
theorem exec_veReadComplete {s : State} {j : Job} {i : BlockIndex} (hj : s.job = some j) (hf : s.store.inFlight = some ⟨.ve, .read i⟩) :
    exec .veReadComplete s = .next ({ s with store := { s.store with inFlight := none } }.closeGranting
      ((Work.mk j []).verifierRead (s.store.readBlock i))) := by
  show Host.Outcome.next s.veReadComplete = _
  unfold State.veReadComplete
  rw [hf, hj]
  rfl

theorem Work.verifierRead_discarded {w : Work} (h : w.job.verifier.discarded = true) (data : Option Bytes) :
    w.verifierRead data = w.map Job.discardedRead := if_pos h

theorem Work.verifierRead_task {w : Work} {t : DigestTask} {rest : List DigestTask} {p : TaskProgress}
    (hd : w.job.verifier.discarded = false) (hc : w.job.verifier.close = none) (ht : w.job.verifier.tasks = t :: rest)
    (hp : w.job.verifier.progress = some p) (data : Option Bytes) : w.verifierRead data = w.taskRead t p data := by
  unfold Work.verifierRead
  dsimp only
  rw [hd, hc, ht, hp]
  rfl

theorem Work.verifierRead_close {w : Work} {c : CloseOperation} (hd : w.job.verifier.discarded = false)
    (hc : w.job.verifier.close = some c) (data : Option Bytes) : w.verifierRead data = w.closeRead c data := by
  unfold Work.verifierRead
  dsimp only
  rw [hd, hc]
  rfl

/-- A discarded read: the next task begins; in ABORTING, after VE's stop, VE reports to JC (R129, R137). -/
theorem Job.discardedRead_eq (j : Job) :
    j.discardedRead =
      let begun := Job.beginTask false { j with verifier := { j.verifier with discarded := false } }
      if j.phase = .aborting ∧ j.signals.verifierStop = false then { begun with verifierClear := true } else begun := rfl

/-- Settles O35: VE's read by what it is of, a discarded read, or the next block of the task in progress. -/
theorem veReadCompletes : Obligations.VeReadCompletes := by
  unfold Obligations.VeReadCompletes
  intro s j i hj hf free begun
  rw [exec_veReadComplete hj hf]
  refine ⟨fun hd hp => ?_, fun hd hp hs => ?_, fun t rest p hd hc ht hpr => ?_⟩
  · rw [Work.verifierRead_discarded (w := ⟨j, []⟩) hd, Work.map, Job.discardedRead_eq, if_neg]
    rintro ⟨hp', hs'⟩
    rcases hp with hp | hs
    · exact hp hp'
    · cases hs.symm.trans hs'
  · rw [Work.verifierRead_discarded (w := ⟨j, []⟩) hd, Work.map, Job.discardedRead_eq, if_pos ⟨hp, hs⟩]
  · rw [Work.verifierRead_task (w := ⟨j, []⟩) hd hc ht hpr]
    refine ⟨fun data hdata hmore => ?_, fun data hdata hlast => ?_, fun hnone => ?_⟩
    · rw [hdata]
      exact congrArg (fun w => Host.Outcome.next (free.closeGranting w)) (if_neg hmore)
    · rw [hdata]
      exact congrArg (fun w => Host.Outcome.next (free.closeGranting w)) (if_pos hlast)
    · rw [hnone]
      rfl

/-! ### A task's end, the hand-off and the next task -/

/-- A task's end outside ABORTING: CT's account, JC's counter, the notices, then the queue (R127, R128, R130). -/
theorem Work.taskEnds_eq {j : Job} (hp : j.phase ≠ .aborting) (t : DigestTask) (outcome : TaskOutcome) :
    let a := j.tracker.sectionResult t.start t.count outcome
    (Work.mk j []).taskEnds t outcome =
      ⟨Job.beginTask false (Job.handOff { j with
        tracker := a.tracker
        counters := if outcome = .mismatch then
          { j.counters with digestMismatches := min (j.counters.digestMismatches + 1) 4294967295 } else j.counters
        verifier := { j.verifier with tasks := j.verifier.tasks.drop 1, progress := none } }),
      overflowNotices j.descriptor.jobId a.overflowed ++
      (match outcome with
        | .isMatch => []
        | .mismatch => [.mismatch j.descriptor.jobId t.number t.start t.count none]
        | .check b => [.mismatch j.descriptor.jobId t.number t.start t.count (some b)])⟩ := by
  intro a
  have haccount : (Work.mk j []).account a = ⟨{ j with tracker := a.tracker }, overflowNotices j.descriptor.jobId a.overflowed⟩ := by
    rw [Work.account_eq]
    exact congrArg (Work.mk _) (if_neg hp)
  unfold Work.taskEnds
  rw [show (Work.mk j []).account _ = _ from haccount]
  cases outcome with
  | isMatch =>
    rw [List.append_nil]
    rfl
  | mismatch =>
    dsimp only [Work.map]
    rw [Job.count_counters, if_neg hp]
    exact congrArg (Work.map Job.endTask) (if_neg hp)
  | check b => exact congrArg (Work.map Job.endTask) (if_neg hp)

theorem Job.handOff_none {j : Job} (h : j.unit.activity ≠ .verifyWait ∨ j.unit.item = none ∨ 4 ≤ j.verifier.tasks.length) :
    j.handOff = j := by
  unfold Job.handOff
  split
  · next t hwait htask =>
    rcases h with h | h | h
    · exact absurd hwait h
    · rw [h] at htask
      cases htask
    · exact if_neg (by rw [Verifier.hasPlace_iff]; exact Nat.not_lt.mpr h)
  · rfl

theorem Job.handOff_task {j : Job} {number : Word16} {start count next stop : Nat} {digest : Word32} (hwait : j.unit.activity = .verifyWait)
    (hitem : j.unit.item = some ⟨.sectionEnd number start count (some digest), next, stop⟩) (hplace : j.verifier.tasks.length < 4) :
    j.handOff = { j with
      verifier := { j.verifier with tasks := j.verifier.tasks ++ [⟨number, start, count, digest⟩] }
      unit := { j.unit with activity := .idle, item := none } } := by
  unfold Job.handOff
  rw [hwait, hitem]
  exact if_pos (Verifier.hasPlace_iff.mpr hplace)

theorem Job.beginTask_none {j : Job} {outstanding : Bool}
    (h : j.verifier.tasks = [] ∨ j.verifier.progress ≠ none ∨ j.verifier.waiting ≠ none ∨ outstanding = true) :
    Job.beginTask outstanding j = j := by
  have hbegin : j.verifier.beginTask j.descriptor.targetFirst outstanding = j.verifier := by
    unfold Verifier.beginTask
    split
    · rfl
    · next t rest ht =>
      refine if_neg ?_
      rw [Bool.and_eq_true, Bool.not_eq_true', Verifier.holdsRequest, Bool.or_eq_false_iff, Option.isNone_iff_eq_none,
        Option.isSome_eq_false_iff, Option.isNone_iff_eq_none]
      rintro ⟨hprogress, hwaiting, houtstanding⟩
      rcases h with h | h | h | h
      · cases ht.symm.trans h
      · exact h hprogress
      · exact h hwaiting
      · cases h.symm.trans houtstanding
  exact congrArg (fun v => { j with verifier := v }) hbegin

theorem Job.beginTask_first {j : Job} {t : DigestTask} {rest : List DigestTask} (ht : j.verifier.tasks = t :: rest)
    (hp : j.verifier.progress = none) (hw : j.verifier.waiting = none) :
    Job.beginTask false j = { j with verifier := { j.verifier with
      progress := some ⟨t.start, 0xFFFFFFFF#32⟩
      waiting := some (storeIndex j.descriptor.targetFirst t.start) } } := by
  have hbegin : j.verifier.beginTask j.descriptor.targetFirst false = { j.verifier with
      progress := some ⟨t.start, 0xFFFFFFFF#32⟩
      waiting := some (storeIndex j.descriptor.targetFirst t.start) } := by
    unfold Verifier.beginTask
    split
    · next h => cases ht.symm.trans h
    · next h =>
      cases ht.symm.trans h
      exact if_pos (by rw [hp, Verifier.holdsRequest, hw]; rfl)
  exact congrArg (fun v => { j with verifier := v }) hbegin

/-- A write to a block of the task in progress: the request of that task is withdrawn, or discarded when it is outstanding (R129). -/
theorem Verifier.cancel_current {v : Verifier} {b : Nat} (h : v.progressCovers b = true) (outstanding : Bool) :
    v.cancel b outstanding = { v with
      tasks := v.tasks.filter (fun t => !t.covers b)
      progress := none
      waiting := none
      discarded := v.discarded || outstanding } := if_pos h

theorem Verifier.cancel_other {v : Verifier} {b : Nat} (h : v.progressCovers b = false) (outstanding : Bool) :
    v.cancel b outstanding = { v with tasks := v.tasks.filter (fun t => !t.covers b) } :=
  if_neg (by rw [h]; exact Bool.false_ne_true)

theorem DigestTask.covers_iff {t : DigestTask} {b : Nat} : t.covers b = true ↔ t.start ≤ b ∧ b < t.start + t.count := by
  simp [DigestTask.covers]

/-- Settles O36: a task's end with its report, the hand-off, the next task, and a write's cancelling of tasks. -/
theorem taskResultReported : Obligations.TaskResultReported := by
  unfold Obligations.TaskResultReported
  refine ⟨fun j t outcome hp => Work.taskEnds_eq hp t outcome,
    fun j => ⟨Job.handOff_none, fun _ _ _ _ _ _ => Job.handOff_task⟩,
    fun j outstanding => ⟨Job.beginTask_none, fun t rest ht hp hw ho => ?_⟩,
    fun j b outstanding => ⟨fun t rest ht hp h1 h2 => ?_, fun h => ?_⟩⟩
  · rw [ho]
    exact Job.beginTask_first ht hp hw
  · have hcovers : j.verifier.progressCovers b = true := by
      unfold Verifier.progressCovers
      rw [ht, Bool.and_eq_true, Option.isSome_iff_ne_none]
      exact ⟨hp, DigestTask.covers_iff.mpr ⟨h1, h2⟩⟩
    exact congrArg (fun v => Job.beginTask outstanding (Job.handOff { j with verifier := v })) (Verifier.cancel_current hcovers outstanding)
  · have hcovers : j.verifier.progressCovers b = false := by
      unfold Verifier.progressCovers
      rw [Bool.and_eq_false_iff]
      rcases h with h | h
      · exact Or.inl (by rw [h]; rfl)
      · refine Or.inr ?_
        split
        · next t rest ht => exact Bool.eq_false_iff.mpr (fun hc => h t rest ht (DigestTask.covers_iff.mp hc))
        · rfl
    exact congrArg (fun v => Job.beginTask outstanding (Job.handOff { j with verifier := v })) (Verifier.cancel_other hcovers outstanding)

end Sys2Proof.Machine
end

section
/-! CLOSE_IMAGE and the whole-image check (R132 to R135). -/

namespace Sys2Proof.Machine

/-! ### The conditions -/

theorem Tracker.lowestListable_none {t : Tracker} (h : ∀ b, b < t.map.length → (t.state b).listable = false) :
    t.lowestListable = none := by
  unfold Tracker.lowestListable
  rw [List.findSome?_eq_none_iff]
  intro b hb
  exact if_neg (by rw [h b (List.mem_range.mp hb)]; exact Bool.false_ne_true)

theorem Tracker.lowestListable_first {t : Tracker} {b : Nat} (hb : b < t.map.length) (hl : (t.state b).listable = true)
    (hlow : ∀ k, k < b → (t.state k).listable = false) : t.lowestListable = some (b, t.state b) := by
  have hsplit : List.range t.map.length = List.range b ++ b :: List.range' (b + 1) (t.map.length - b - 1) := by
    have hlength : t.map.length = b + (t.map.length - b - 1 + 1) := by omega
    conv_lhs => rw [hlength, List.range_eq_range', ← List.range'_append_1, Nat.zero_add, List.range'_succ, ← List.range_eq_range']
  unfold Tracker.lowestListable
  rw [List.findSome?_eq_some_iff]
  refine ⟨_, b, _, hsplit, if_pos hl, fun k hk => if_neg ?_⟩
  rw [hlow k (List.mem_range.mp hk)]
  exact Bool.false_ne_true

section

variable {j : Job} {outstanding : Bool}

theorem Job.closeTest_noEnd (h : j.endRecord.seen = false) : j.closeTest outstanding = .error (.unmet 1 0 .empty) := by
  unfold Job.closeTest
  rw [h]

variable {digest : Word32} (hend : j.endRecord = ⟨true, some digest⟩)
include hend

theorem Job.closeTest_short (h : j.tracker.frontier < j.descriptor.targetLength) :
    j.closeTest outstanding = .error (.unmet 2 j.tracker.frontier .empty) := by
  unfold Job.closeTest
  rw [hend]
  exact if_pos h

variable (hfull : j.descriptor.targetLength ≤ j.tracker.frontier)
include hfull

/-- With the image at its end and F at its length, the first listable block is named. -/
theorem Job.closeTest_listable {b : Nat} {c : Coverage} (h : j.tracker.lowestListable = some (b, c)) :
    j.closeTest outstanding = .error (.unmet 3 b c) := by
  unfold Job.closeTest
  rw [hend]
  refine (if_neg (Nat.not_lt.mpr hfull)).trans ?_
  rw [h]

variable (hnone : j.tracker.lowestListable = none)
include hnone

/-- What is left to test once the blocks pass. -/
theorem Job.closeTest_complete :
    j.closeTest outstanding = if !j.tracker.repairs.isEmpty || j.tracker.overflow then .error (.unmet 4 0 .empty)
      else if !j.verifier.isIdle outstanding then .error (.unmet 5 0 .empty) else .ok digest := by
  unfold Job.closeTest
  rw [hend]
  refine (if_neg (Nat.not_lt.mpr hfull)).trans ?_
  rw [hnone]

theorem Job.closeTest_repairs (h : j.tracker.repairs ≠ [] ∨ j.tracker.overflow = true) :
    j.closeTest outstanding = .error (.unmet 4 0 .empty) := by
  rw [Job.closeTest_complete hend hfull hnone]
  refine if_pos ?_
  rw [Bool.or_eq_true, Bool.not_eq_true', List.isEmpty_eq_false_iff]
  exact h

variable (hrepairs : j.tracker.repairs = []) (hoverflow : j.tracker.overflow = false)
include hrepairs hoverflow

theorem Job.closeTest_listClear :
    j.closeTest outstanding = if !j.verifier.isIdle outstanding then .error (.unmet 5 0 .empty) else .ok digest := by
  rw [Job.closeTest_complete hend hfull hnone, hrepairs, hoverflow]
  exact if_neg Bool.false_ne_true

theorem Job.closeTest_busy (h : j.verifier.isIdle outstanding = false) : j.closeTest outstanding = .error (.unmet 5 0 .empty) := by
  rw [Job.closeTest_listClear hend hfull hnone hrepairs hoverflow, h]
  exact if_pos rfl

theorem Job.closeTest_ok (h : j.verifier.isIdle outstanding = true) : j.closeTest outstanding = .ok digest := by
  rw [Job.closeTest_listClear hend hfull hnone hrepairs hoverflow, h]
  exact if_neg Bool.false_ne_true

end

/-! ### CLOSE_IMAGE -/

/-- CLOSE_IMAGE in READY, by its test. -/
theorem State.Accepts.exec_closeImage {s : State} {j : Job} {tag : Byte} {body : Bytes} (h : s.Accepts tag 0x38 body)
    (hj : s.job = some j) (hp : j.phase = .ready) :
    exec (.closeImage tag body) s = .next ((match j.closeTest (s.store.outstanding .ve) with
      | .error body => (s.entered tag 0x38).reply tag .incomplete body
      | .ok expected => ({ s.entered tag 0x38 with job := some (j.beginClose expected) }.reply tag .started .empty).arbitrate).transmit) := by
  rw [exec_request ⟨rfl, rfl⟩, h.request_eq]
  show Host.Outcome.next (State.closeImage tag (s.entered tag 0x38)).transmit = _
  unfold State.closeImage
  rw [State.atJobState_ready tag _ ((s.entered_job tag 0x38).trans hj) hp]
  rfl

section

variable {s : State} {j : Job} {tag : Byte} {body : Bytes} (h : s.Accepts tag 0x38 body) (hj : s.job = some j) (hp : j.phase = .ready)
include h hj hp

theorem State.Accepts.exec_closeImage_unmet {unmet : ReplyBody} (htest : j.closeTest (s.store.outstanding .ve) = .error unmet) :
    exec (.closeImage tag body) s = .next (s.answered tag 0x38 .incomplete unmet) := by
  rw [h.exec_closeImage hj hp, htest]
  rfl

theorem State.Accepts.exec_closeImage_started {digest : Word32} (htest : j.closeTest (s.store.outstanding .ve) = .ok digest) :
    exec (.closeImage tag body) s = .next
      ((({ s.entered tag 0x38 with job := some (j.beginClose digest) }.reply tag .started .empty).arbitrate).transmit) := by
  rw [h.exec_closeImage hj hp, htest]

end

/-- Settles O37: the five conditions in their order, and the close that starts. -/
theorem closeImageTested : Obligations.CloseImageTested := by
  unfold Obligations.CloseImageTested
  intro tag body s j haccepts hj hp
  refine ⟨fun hend => haccepts.exec_closeImage_unmet hj hp (Job.closeTest_noEnd hend), fun digest hend =>
    ⟨fun hshort => haccepts.exec_closeImage_unmet hj hp (Job.closeTest_short hend hshort), fun hfull =>
      ⟨fun b hb hl hlow => haccepts.exec_closeImage_unmet hj hp
        (Job.closeTest_listable hend hfull (Tracker.lowestListable_first hb hl hlow)), fun hclear => ?_⟩⟩⟩
  have hnone := Tracker.lowestListable_none hclear
  refine ⟨fun hlist => haccepts.exec_closeImage_unmet hj hp (Job.closeTest_repairs hend hfull hnone hlist), fun hrepairs hoverflow =>
    ⟨fun hbusy => haccepts.exec_closeImage_unmet hj hp (Job.closeTest_busy hend hfull hnone hrepairs hoverflow hbusy), fun hidle => ?_⟩⟩
  exact haccepts.exec_closeImage_started hj hp (Job.closeTest_ok hend hfull hnone hrepairs hoverflow hidle)

/-! ### The whole-image check -/

/-- The close ends in CLOSING: the job takes its new state and the notice is posted (R17, R134, R135). -/
theorem Work.closeEnds_closing {w : Work} (hp : w.job.phase = .closing) (phase : JobPhase) (n : Notice) :
    w.closeEnds phase n = ⟨{ w.job with phase := phase, verifier := { w.job.verifier with close := none } }, w.notices ++ [n]⟩ := if_pos hp

theorem Tracker.removeBlock_nil {t : Tracker} (h : t.repairs = []) (b : Nat) : t.removeBlock b = ⟨t, none⟩ := by
  unfold Tracker.removeBlock
  rw [h]
  rfl

/-- An empty list loses nothing. -/
theorem Tracker.removeBlocks_nil {t : Tracker} (h : t.repairs = []) (bs : List Nat) : t.removeBlocks bs = ⟨t, none⟩ := by
  unfold Tracker.removeBlocks
  induction bs with
  | nil => rfl
  | cons b bs ih =>
    rw [List.foldl_cons]
    dsimp only
    rw [Tracker.removeBlock_nil h]
    exact ih

/-- A range enters an empty list as it is. -/
theorem Tracker.addRange_nil {t : Tracker} (h : t.repairs = []) {r : BlockRange} (hr : r.count ≠ 0) :
    t.addRange r = ⟨{ t with repairs := [r] }, none⟩ := by
  unfold Tracker.addRange
  rw [if_neg hr, h]
  rfl

/-- The account of a close that matches, with an empty list (R29). -/
theorem Tracker.closeMatch_eq {t : Tracker} (h : t.repairs = []) :
    t.closeMatch = ⟨{ t with map := t.map.map (fun _ => .verified) }, none⟩ :=
  Tracker.removeBlocks_nil (t := { t with map := t.map.map (fun _ => .verified) }) h _

/-- The account of a check failure, with an empty list (R29). -/
theorem Tracker.closeCheck_eq {t : Tracker} (h : t.repairs = []) (b : Nat) :
    t.closeCheck b = ⟨{ t with map := t.map.set b .suspect, repairs := [⟨b, 1⟩] }, none⟩ :=
  Tracker.addRange_nil (t := t.setState b .suspect) h Nat.one_ne_zero

/-- An account with no overflow posts nothing. -/
theorem Work.account_quiet {j : Job} {t : Tracker} : (Work.mk j []).account ⟨t, none⟩ = ⟨{ j with tracker := t }, []⟩ := rfl

/-- Settles O38: the next block, or the three ends of the check. -/
theorem closeEnds : Obligations.CloseEnds := by
  unfold Obligations.CloseEnds
  intro s j i c hj hf hp hd hc
  refine ⟨(Work.mk j []).closeRead c (s.store.readBlock i), ?_, fun data hdata hmore => ?_, fun data hdata hlast hmatch hrepairs => ?_,
    fun data hdata hlast hmismatch => ?_, fun hnone hrepairs => ?_⟩
  · rw [exec_veReadComplete hj hf, Work.verifierRead_close (w := ⟨j, []⟩) hd hc]
  · rw [hdata]
    exact if_neg hmore
  · rw [hdata]
    refine (if_pos hlast).trans ((if_pos hmatch).trans ?_)
    dsimp only
    rw [Tracker.closeMatch_eq hrepairs, Work.account_quiet, Work.closeEnds_closing hp]
    rfl
  · rw [hdata]
    exact (if_pos hlast).trans ((if_neg hmismatch).trans (Work.closeEnds_closing (w := ⟨j, []⟩) hp _ _))
  · rw [hnone]
    unfold Work.closeRead
    dsimp only
    rw [Tracker.closeCheck_eq hrepairs, Work.account_quiet, Work.closeEnds_closing hp]
    rfl

end Sys2Proof.Machine
end

section
/-! What ends an event at the job (R14, R70, R119, R144, R145, R150). -/

namespace Sys2Proof.Machine

theorem ReconUnit.isIdle_iff {u : ReconUnit} : u.isIdle = true ↔ u.activity = .idle := beq_iff_eq

theorem Job.drained_iff {j : Job} : j.drained = true ↔ j.decoder.running = false ∧ j.queue = [] ∧ j.unit.activity = .idle := by
  rw [Job.drained, Bool.and_eq_true, Bool.and_eq_true, Bool.not_eq_true', List.isEmpty_iff, ReconUnit.isIdle_iff, and_assoc]

theorem Job.quiesced_iff {j : Job} {o : Bool} :
    j.quiesced o = true ↔ j.decoder.running = false ∧ j.decoderQuiet = true ∧ (j.unit.activity = .idle ∨ j.unit.activity = .halted) ∧
      j.unit.waiting = none ∧ o = false := by
  rw [Job.quiesced, ReconUnit.isQuiet]
  simp only [Bool.and_eq_true, Bool.or_eq_true, Bool.not_eq_true', beq_iff_eq, Option.isNone_iff_eq_none, and_assoc]

theorem Window.gap_iff {w : Window} : w.gap = true ↔ w.held? w.base = none ∧ 0 < w.heldCount := by
  rw [Window.gap, Bool.and_eq_true, Option.isNone_iff_eq_none, decide_eq_true_iff]

/-! ### JC's two tests -/

theorem Work.testDrain_done {w : Work} {r : StopReason} (h : w.job.phase = .stopping ∧ w.job.drained = true)
    (hr : w.job.stopReason = some r) :
    w.testDrain = ⟨{ w.job with phase := .ready },
      w.notices ++ [.stopped w.job.descriptor.jobId r w.job.decoder.blocksCovered w.job.decoder.sectionsCompleted]⟩ := by
  unfold Work.testDrain
  rw [if_pos h, hr]
  rfl

theorem Work.testDrain_keeps {w : Work} (h : ¬(w.job.phase = .stopping ∧ w.job.drained = true)) : w.testDrain = w := if_neg h

theorem Work.testQuiesce_done {w : Work} {o : Bool} {r : FaultRecord} (h : w.job.phase = .quiescing ∧ w.job.quiesced o = true)
    (hr : w.job.faultRecord = some r) :
    w.testQuiesce o = ⟨{ w.job with phase := .faulted }, w.notices ++ [.fault w.job.descriptor.jobId r]⟩ := by
  unfold Work.testQuiesce
  rw [if_pos h, hr]
  rfl

theorem Work.testQuiesce_keeps {w : Work} {o : Bool} (h : ¬(w.job.phase = .quiescing ∧ w.job.quiesced o = true)) :
    w.testQuiesce o = w := if_neg h

/-- The timers leave the job state that the tests give. -/
theorem Work.settle_phase (w : Work) (o : Bool) : (w.settle o).job.phase = (w.testDrain.testQuiesce o).job.phase := by
  obtain ⟨timer, monitor, h⟩ := (w.testDrain.testQuiesce o).job.settleTimers_spec
  exact (congrArg Job.phase h).trans rfl

/-- The end of an event has the job state and the notices of the two tests. -/
theorem Work.settle_of_tests {w w' : Work} {o : Bool} (h : w.testDrain.testQuiesce o = w') :
    (w.settle o).job.phase = w'.job.phase ∧ (w.settle o).notices = w'.notices := by
  have hnotices : (w.testDrain.testQuiesce o).notices = w'.notices := congrArg Work.notices h
  rw [Work.settle_phase, h]
  exact ⟨rfl, hnotices⟩

theorem Work.settle_drained {w : Work} {r : StopReason} (h : w.job.phase = .stopping ∧ w.job.drained = true)
    (hr : w.job.stopReason = some r) (o : Bool) :
    (w.settle o).job.phase = .ready ∧ (w.settle o).notices =
      w.notices ++ [.stopped w.job.descriptor.jobId r w.job.decoder.blocksCovered w.job.decoder.sectionsCompleted] := by
  refine Work.settle_of_tests (w' := ⟨{ w.job with phase := .ready }, _⟩) ?_
  rw [Work.testDrain_done h hr]
  exact Work.testQuiesce_keeps (fun h => nomatch h.1)

theorem Work.settle_quiesced {w : Work} {o : Bool} {r : FaultRecord} (h : w.job.phase = .quiescing ∧ w.job.quiesced o = true)
    (hr : w.job.faultRecord = some r) :
    (w.settle o).job.phase = .faulted ∧ (w.settle o).notices = w.notices ++ [.fault w.job.descriptor.jobId r] := by
  refine Work.settle_of_tests (w' := ⟨{ w.job with phase := .faulted }, _⟩) ?_
  rw [Work.testDrain_keeps (fun hs => nomatch hs.1.symm.trans h.1)]
  exact Work.testQuiesce_done h hr

theorem Work.settle_keeps {w : Work} {o : Bool} (h1 : ¬(w.job.phase = .stopping ∧ w.job.drained = true))
    (h2 : ¬(w.job.phase = .quiescing ∧ w.job.quiesced o = true)) :
    (w.settle o).job.phase = w.job.phase ∧ (w.settle o).notices = w.notices := by
  refine Work.settle_of_tests ?_
  rw [Work.testDrain_keeps h1]
  exact Work.testQuiesce_keeps h2

/-- Besides the job state only the two timers change, by the job state that the event leaves (R70, R119). -/
theorem Work.settle_job (w : Work) (o : Bool) :
    (w.settle o).job = { w.job with
      phase := (w.settle o).job.phase
      window := { w.job.window with gapTimer :=
        if (w.settle o).job.phase.inRun = true ∧ w.job.window.held? w.job.window.base = none ∧ 0 < w.job.window.heldCount then
          match w.job.window.gapTimer with
          | .running ms => .running ms
          | .idle => .running w.job.descriptor.gapHold
        else .idle }
      unit := { w.job.unit with monitor := if (w.settle o).job.phase.inRun = true then w.job.unit.monitor else .stopped } } := by
  obtain ⟨p1, _, h1, _⟩ := w.testDrain_spec
  obtain ⟨p2, _, h2, _⟩ := w.testDrain.testQuiesce_spec o
  have htested : (w.testDrain.testQuiesce o).job = { w.job with phase := p2 } := by rw [h2, h1]
  have hphase : (w.settle o).job.phase = p2 := (w.settle_phase o).trans (congrArg Job.phase htested)
  rw [hphase]
  have hsettled : (w.settle o).job = Job.settleTimers { w.job with phase := p2 } := congrArg Job.settleTimers htested
  rw [hsettled, Job.settleTimers_eq]
  simp only [Bool.and_eq_true, Window.gap_iff] <;> rfl

/-- Settles O39: JC's two tests, the timers, the teardown, and the order of an event's end. -/
theorem eventEndTests : Obligations.EventEndTests := by
  unfold Obligations.EventEndTests
  refine ⟨fun w o => ⟨fun hp h1 h2 h3 r hr => Work.settle_drained ⟨hp, Job.drained_iff.mpr ⟨h1, h2, h3⟩⟩ hr o,
    fun hp h1 h2 h3 h4 h5 r hr => Work.settle_quiesced ⟨hp, Job.quiesced_iff.mpr ⟨h1, h2, h3, h4, h5⟩⟩ hr,
    fun h1 h2 => Work.settle_keeps (by rw [Job.drained_iff]; exact h1) (by rw [Job.quiesced_iff]; exact h2), w.settle_job o⟩,
    fun s j hj => ⟨fun hp hunit hverifier => ?_, fun hopen => ?_⟩, fun s w => ⟨rfl, rfl, rfl⟩⟩
  · exact State.teardown_done hj (by simp [Job.tornDown, hp, hunit, hverifier])
  · exact State.teardown_eq_self hj (hopen.elim Job.tornDown_of_ne Job.tornDown_of_open)

end Sys2Proof.Machine
end

section
/-! The store arbiter's rotation and its refusals (R155, R156, R160). -/

namespace Sys2Proof.Machine

/-- A requester before which, in the rotation after the last one granted, nobody waits. -/
def State.ComesFirst (s : State) (who : Requester) : Prop :=
  ∃ before after, s.store.lastGranted.rotation = before ++ who :: after ∧ ∀ other ∈ before, s.waitingOp other = none

theorem State.chosen_first {s : State} {who : Requester} {op : StoreOp} (hfirst : s.ComesFirst who) (hop : s.waitingOp who = some op) :
    s.chosen = some (who, op) := by
  obtain ⟨before, after, hrotation, hbefore⟩ := hfirst
  unfold State.chosen
  rw [List.findSome?_eq_some_iff]
  exact ⟨before, who, after, hrotation, by rw [hop]; rfl, fun other h => by rw [hbefore other h]; rfl⟩

/-- With nobody waiting nobody is chosen. -/
theorem State.chosen_none {s : State} (h : ∀ who, s.waitingOp who = none) : s.chosen = none := by
  unfold State.chosen
  rw [List.findSome?_eq_none_iff]
  intro who _
  rw [h who]
  rfl

theorem State.arbitrate_none {s : State} (h : ∀ who, s.waitingOp who = none) : s.arbitrate = s := by
  unfold State.arbitrate State.arbitrateWithin
  rw [State.chosen_none h]
  split
  · rfl
  · rfl

/-- A grant in full: the transaction is in flight, and the request of RU or VE waits no longer. -/
theorem State.grant_eq (who : Requester) (op : StoreOp) (s : State) :
    s.grant who op = { s with
      store := { s.store with inFlight := some ⟨who, op⟩, lastGranted := who }
      job := match who with
        | .ru => s.job.map (fun j => { j with unit := { j.unit with waiting := none } })
        | .ve => s.job.map (fun j => { j with verifier := { j.verifier with waiting := none } })
        | .lp => s.job } := by
  cases who with
  | ru | ve | lp => rfl

/-- Only a host write to a locked block is refused (R160). -/
theorem State.refuses_iff {s : State} {who : Requester} {op : StoreOp} :
    s.refuses who op = true ↔ who = .lp ∧ op.isWrite = true ∧ s.locked op.index.val = true := by
  rw [State.refuses, Bool.and_eq_true, Bool.and_eq_true, beq_iff_eq, and_assoc]

/-- The refusal of a host write: its transfer leaves LP's queue with the reply LOCKED. -/
theorem State.refuseLocked_eq {s : State} {tag : Byte} {op : StoreOp} {rest : List HostTransfer} (h : s.link.transfers = ⟨tag, op⟩ :: rest) :
    s.refuseLocked op = ({ s with
      store := { s.store with lastGranted := .lp }
      link := { s.link with transfers := rest } } : State).reply tag .locked (.blockIndex op.index.val) := by
  unfold State.refuseLocked State.endTransfer State.mapStore
  dsimp only
  rw [h]
  rfl

/-- A host write to a locked block whose turn comes is refused, and the arbiter goes on. -/
theorem State.arbitrate_locked {s : State} {tag : Byte} {i : BlockIndex} {content : Bytes} {rest : List HostTransfer}
    (hf : s.store.inFlight = none) (hc : s.store.clear = none) (hfirst : s.ComesFirst .lp)
    (ht : s.link.transfers = ⟨tag, .write i content⟩ :: rest) (hlock : s.locked i.val = true) :
    s.arbitrate = (({ s with
      store := { s.store with lastGranted := .lp }
      link := { s.link with transfers := rest } } : State).reply tag .locked (.blockIndex i.val)).arbitrate := by
  have hop : s.waitingOp .lp = some (.write i content) := by
    show s.link.transfers.head?.map (fun t => t.op) = _
    rw [ht]
    rfl
  rw [State.arbitrate_refuses hf hc (State.chosen_first hfirst hop) (State.refuses_iff.mpr ⟨rfl, rfl, hlock⟩) ht, State.refuseLocked_eq ht]
  rfl

/-- Settles O43: nothing is granted at a busy store or with nobody waiting; else the first of the rotation is granted, or refused. -/
theorem arbiterRotates : Obligations.ArbiterRotates := by
  unfold Obligations.ArbiterRotates
  refine ⟨fun s => State.arbitrate_busy, fun s _ _ => State.arbitrate_none, fun s hf hc => ?_⟩
  intro first
  have hfirst (who : Requester) (h : first who) : s.ComesFirst who := by
    unfold State.ComesFirst
    cases hl : s.store.lastGranted <;> cases who <;> simp only [first, hl] at h
    · exact ⟨[.ve, .lp], [], rfl, by simpa using h⟩
    · exact ⟨[], _, rfl, by simp⟩
    · exact ⟨[.ve], _, rfl, by simpa using h⟩
    · exact ⟨[.lp], _, rfl, by simpa using h⟩
    · exact ⟨[.lp, .ru], [], rfl, by simpa using h⟩
    · exact ⟨[], _, rfl, by simp⟩
    · exact ⟨[], _, rfl, by simp⟩
    · exact ⟨[.ru], _, rfl, by simpa using h⟩
    · exact ⟨[.ru, .ve], [], rfl, by simpa using h⟩
  refine ⟨fun who op hwho hop hopen => ?_, fun tag i content rest hlp ht hlock => State.arbitrate_locked hf hc (hfirst .lp hlp) ht hlock⟩
  have hgrant : s.refuses who op = false := by
    rw [Bool.eq_false_iff, ne_eq, State.refuses_iff]
    rintro ⟨hlp, hwrite, hlock⟩
    exact Bool.false_ne_true ((hopen hlp hwrite).symm.trans hlock)
  exact (State.arbitrate_grants hf hc (State.chosen_first (hfirst who hwho) hop) hgrant).trans (State.grant_eq who op s)

end Sys2Proof.Machine
end

section
/-! The block store: host transfers, blocks written and damaged, the start-up clear and the resets (R154, R158 to R164). -/

namespace Sys2Proof.Machine

/-! ### Blocks written and damaged -/

/-- A write leaves every other block as sound as it was. -/
theorem Store.sound_writeBlock_other (st : Store) (i : BlockIndex) (content : Bytes) {k : Nat} (hk : k ≠ i.val) :
    (st.writeBlock i content).sound k = st.sound k := by
  have hdamaged : (st.damaged.filter (fun d => d.index != i.val)).any (fun d => d.index == k) = st.damaged.any (fun d => d.index == k) := by
    rw [List.any_filter]
    refine congrArg st.damaged.any (funext fun d => ?_)
    by_cases hd : d.index = k
    · simp [hd, hk]
    · simp [hd]
  unfold Store.sound Store.writeBlock
  dsimp only
  rw [hdamaged]

theorem insertDamage_any_same (d : Damage) (ds : List Damage) : (insertDamage d ds).any (fun e => e.index == d.index) = true := by
  induction ds with
  | nil => simp [insertDamage]
  | cons e rest ih =>
    unfold insertDamage
    split
    · simp
    · split
      · simp
      · simp [ih]

theorem insertDamage_any_other {d : Damage} {k : Nat} (hk : k ≠ d.index) (ds : List Damage) :
    (insertDamage d ds).any (fun e => e.index == k) = ds.any (fun e => e.index == k) := by
  have hd : (d.index == k) = false := beq_eq_false_iff_ne.mpr hk.symm
  induction ds with
  | nil => simp [insertDamage, hd]
  | cons e rest ih =>
    unfold insertDamage
    split
    · simp [hd]
    · split
      · next he => simp [hd, he]
      · simp [ih]

/-- A damaged block is not sound (R154). -/
theorem Store.sound_damageBlock (st : Store) (i : BlockIndex) (content : Bytes) : (st.damageBlock i content).sound i.val = false := by
  unfold Store.sound Store.damageBlock
  dsimp only
  rw [insertDamage_any_same ⟨i.val, st.checkWordAt i.val⟩]
  rfl

theorem Store.sound_damageBlock_other (st : Store) (i : BlockIndex) (content : Bytes) {k : Nat} (hk : k ≠ i.val) :
    (st.damageBlock i content).sound k = st.sound k := by
  unfold Store.sound Store.damageBlock
  dsimp only
  rw [insertDamage_any_other (d := ⟨i.val, st.checkWordAt i.val⟩) hk]

/-- Damage leaves in the cells what a write of the same bytes leaves. -/
theorem Store.content_damageBlock (st : Store) (i : BlockIndex) (content : Bytes) (k : Nat) :
    (st.damageBlock i content).content k = (st.writeBlock i content).content k := rfl

/-- Settles O42: what a write and a damage leave in every block, and what is sound after them. -/
theorem storedBlocksReadBack : Obligations.StoredBlocksReadBack := by
  unfold Obligations.StoredBlocksReadBack
  refine ⟨fun st i content hwf hc hlen => ⟨?_, Store.sound_writeBlock hc i content, fun k hk =>
      ⟨Store.content_writeBlock_other hwf i content hk, st.sound_writeBlock_other i content hk⟩⟩,
    fun s i content hwf hc hlen => ⟨s.store.damageBlock i content, ?_, ?_, s.store.sound_damageBlock i content, rfl, rfl, rfl, fun k hk =>
      ⟨Store.content_writeBlock_other hwf i content hk, s.store.sound_damageBlock_other i content hk⟩⟩⟩
  · rw [Store.content_writeBlock hwf hc, blockOf_eq hlen]
  · exact dif_pos i.isLt
  · rw [Store.content_damageBlock, Store.content_writeBlock hwf hc, blockOf_eq hlen]

/-! ### Host transfers -/

/-- A block index in the store is taken, one past it is field 1 (R158). -/
theorem readIndex_eq (body : Bytes) : readIndex body = if h : field body 0 2 < 4096 then .ok ⟨field body 0 2, h⟩ else .error 1 := rfl

section

variable {s : State} {tag : Byte} {body : Bytes}

theorem State.Accepts.exec_readBlock (h : s.Accepts tag 0x40 body) :
    exec (.readBlock tag body) s = .next ((s.entered tag 0x40).withFields tag (readIndex body)
      (fun i s => (s.mapLink (Link.join ⟨tag, .read i⟩)).arbitrate)).transmit := by
  rw [exec_request ⟨rfl, rfl⟩, h.request_eq]
  rfl

theorem State.Accepts.exec_writeBlock (h : s.Accepts tag 0x41 body) :
    exec (.writeBlock tag body) s = .next ((s.entered tag 0x41).withFields tag (readIndex body)
      (fun i s => (s.mapLink (Link.join ⟨tag, .write i (body.drop 2)⟩)).arbitrate)).transmit := by
  rw [exec_request ⟨rfl, rfl⟩, h.request_eq]
  rfl

end

theorem Link.withTransfers_nil {l : Link} (h : l.transfers = []) : { l with transfers := [] } = l := by
  cases l
  cases h
  rfl

/-- At a free store where nothing else waits, a host write to a locked block is refused and nothing is granted. -/
theorem State.arbitrate_onlyLocked {s : State} {tag : Byte} {i : BlockIndex} {content : Bytes} (hf : s.store.inFlight = none)
    (hc : s.store.clear = none) (hru : s.waitingOp .ru = none) (hve : s.waitingOp .ve = none)
    (ht : s.link.transfers = [⟨tag, .write i content⟩]) (hlock : s.locked i.val = true) :
    s.arbitrate = ({ s with
      store := { s.store with lastGranted := .lp }
      link := { s.link with transfers := [] } } : State).reply tag .locked (.blockIndex i.val) := by
  have hfirst : s.ComesFirst .lp := by
    unfold State.ComesFirst
    cases s.store.lastGranted with
    | ru => exact ⟨[.ve], _, rfl, by simpa using hve⟩
    | ve => exact ⟨[], _, rfl, by simp⟩
    | lp => exact ⟨[.ru, .ve], [], rfl, by simpa using ⟨hru, hve⟩⟩
  rw [State.arbitrate_locked hf hc hfirst ht hlock]
  refine State.arbitrate_none (fun who => ?_)
  cases who with
  | ru => exact hru
  | ve => exact hve
  | lp => rfl

/-- Settles O40: the index by its test, the transfer at the tail of LP's queue, and a write to a locked block. -/
theorem hostTransfersJoin : Obligations.HostTransfersJoin := by
  unfold Obligations.HostTransfersJoin
  refine fun tag body s => ⟨fun haccepts => ⟨fun hbig => ?_, fun h => ?_⟩, fun haccepts => ⟨fun hbig => ?_, fun h => ⟨?_, ?_⟩⟩⟩
  · rw [haccepts.exec_readBlock, readIndex_eq, dif_neg (Nat.not_lt.mpr hbig), State.withFields_error]
    rfl
  · rw [haccepts.exec_readBlock, readIndex_eq, dif_pos h, State.withFields_ok]
    rfl
  · rw [haccepts.exec_writeBlock, readIndex_eq, dif_neg (Nat.not_lt.mpr hbig), State.withFields_error]
    rfl
  · rw [haccepts.exec_writeBlock, readIndex_eq, dif_pos h, State.withFields_ok]
    rfl
  · intro j hj hlock hf ht hunit hverifier
    rw [haccepts.exec_writeBlock, readIndex_eq, dif_pos h, State.withFields_ok]
    have hclear : s.store.clear = none := haccepts.1
    rw [State.arbitrate_onlyLocked (s := (s.entered tag 0x41).mapLink (Link.join ⟨tag, .write ⟨field body 0 2, h⟩ (body.drop 2)⟩))
      (tag := tag) (i := ⟨field body 0 2, h⟩) (content := body.drop 2) hf hclear]
    · show Host.Outcome.next ({ s with
        store := { s.store with lastGranted := .lp }
        link := (Link.reply tag .locked (.blockIndex (field body 0 2)) { s.link.enter tag 0x41 with transfers := [] }).transmit } : State) = _
      rw [Link.withTransfers_nil (l := s.link.enter tag 0x41) ht]
      rfl
    · show s.job.bind _ = none
      rw [hj]
      exact hunit
    · show (s.job.bind _).map _ = none
      rw [hj]
      exact congrArg (Option.map StoreOp.read) hverifier
    · show s.link.transfers ++ _ = _
      rw [ht]
      rfl
    · show s.locked _ = true
      unfold State.locked
      rw [hj]
      exact hlock

theorem State.endTransfer_eq {s : State} {t : HostTransfer} {rest : List HostTransfer} (h : s.link.transfers = t :: rest)
    (status : ReplyStatus) (body : ReplyBody) :
    s.endTransfer status body = ({ s with link := { s.link with transfers := rest } } : State).reply t.tag status body := by
  unfold State.endTransfer
  rw [h]
  rfl

/-- Settles O41: the reply of a read by the block's check word, and a write that puts its bytes in the store. -/
theorem hostTransferCompletes : Obligations.HostTransferCompletes := by
  unfold Obligations.HostTransferCompletes
  intro s t rest ht
  refine ⟨fun i hf => ?_, fun i content hf => ?_⟩
  · show Host.Outcome.next s.hostTransferComplete = _
    unfold State.hostTransferComplete
    rw [hf]
    dsimp only
    unfold Store.readBlock
    cases s.store.sound i.val with
    | true =>
      rw [if_pos rfl, if_pos rfl, if_pos rfl]
      dsimp only
      rw [State.endTransfer_eq (s := s.freeStore) ht]
      rfl
    | false =>
      rw [if_neg Bool.false_ne_true, if_neg Bool.false_ne_true, if_neg Bool.false_ne_true]
      dsimp only
      rw [State.endTransfer_eq (s := s.freeStore) ht]
      rfl
  · show Host.Outcome.next s.hostTransferComplete = _
    unfold State.hostTransferComplete
    rw [hf]
    dsimp only
    rw [State.endTransfer_eq (s := s.freeStore.mapStore _) ht]
    rfl

end Sys2Proof.Machine
end

section
/-! The start-up clear and the two resets (R21, R163, R164, R166, R179, R180). -/

namespace Sys2Proof.Machine

/-- A write of the start-up clear before the last. -/
theorem Store.clearWritten_more {c : Clear} (h : c.next < 4095) (st : Store) :
    st.clearWritten c = { st.writeBlock (storeIndex 0 c.next) (List.replicate 512 0) with
      clear := some ⟨c.next + 1, max c.cleared (c.next + 1), c.consistent && decide (c.next < c.cleared), c.epoch⟩ } :=
  if_pos (show c.next + 1 < 4096 by omega)

/-- The last write of the start-up clear. -/
theorem Store.clearWritten_last {c : Clear} (h : c.next = 4095) (st : Store) :
    st.clearWritten c = { st.writeBlock (storeIndex 0 c.next) (List.replicate 512 0) with
      clear := none, inFlight := none, lastGranted := .lp } :=
  if_neg (show ¬c.next + 1 < 4096 by omega)

/-- Settles O44: the write before the last, and the last with READY. -/
theorem clearWriteCompletes : Obligations.ClearWriteCompletes := by
  unfold Obligations.ClearWriteCompletes
  intro s c hc zeroed further
  refine ⟨fun hmore => ?_, fun hlast => ?_⟩
  · show Host.Outcome.next s.clearWriteComplete = _
    unfold State.clearWriteComplete State.mapStore
    rw [hc]
    dsimp only
    rw [Store.clearWritten_more hmore]
    rfl
  · show Host.Outcome.next s.clearWriteComplete = _
    unfold State.clearWriteComplete State.mapStore
    rw [hc]
    dsimp only
    rw [Store.clearWritten_last hlast]
    rfl

/-- READY is the first notice after a pin reset, and the frame being sent (R174, R179). -/
theorem Link.reset_ready (rate : LineRate) :
    ((Link.reset rate).post (.ready .pin)).transmit = { Link.reset rate with
      sending := some (.notice (.ready .pin) 0), notices := [⟨.ready .pin, 0, true⟩], nextNotice := 1 } := rfl

/-- A pin reset after the clear: the cells are as they were, but for a write in flight, which may have reached its block (R164). -/
theorem Store.resetAfterClear_cells (keepsNew : Bool) (st : Store) :
    ((st.resetAfterClear keepsNew).memory = st.memory ∧ (st.resetAfterClear keepsNew).damaged = st.damaged) ∨
      ∃ who i content, st.inFlight = some ⟨who, .write i content⟩ ∧
        (st.resetAfterClear keepsNew).memory = (st.writeBlock i content).memory ∧
        (st.resetAfterClear keepsNew).damaged = (st.writeBlock i content).damaged := by
  unfold Store.resetAfterClear
  split
  · next who i content hf =>
    cases keepsNew with
    | true => exact Or.inr ⟨who, i, content, hf, rfl, rfl⟩
    | false => exact Or.inl ⟨rfl, rfl⟩
  · exact Or.inl ⟨rfl, rfl⟩
  · exact Or.inl ⟨rfl, rfl⟩

theorem Store.resetAfterClear_free (keepsNew : Bool) {st : Store} (h : st.clear = none) :
    (st.resetAfterClear keepsNew).clear = none ∧ (st.resetAfterClear keepsNew).inFlight = none ∧
      (st.resetAfterClear keepsNew).lastGranted = .lp := by
  unfold Store.resetAfterClear
  refine ⟨?_, rfl, rfl⟩
  split
  · split
    · exact h
    · exact h
  · exact h
  · exact h

/-- A pin reset in the clear starts it again from block 0 (R164). -/
theorem Store.resetInClear_restarts (c : Clear) (keepsNew : Bool) (st : Store) :
    ∃ c', (st.resetInClear c keepsNew).clear = some c' ∧ c'.next = 0 ∧ c'.epoch = c.epoch := by
  unfold Store.resetInClear
  split
  · exact ⟨_, rfl, rfl, rfl⟩
  · exact ⟨_, rfl, rfl, rfl⟩

/-- Settles O45: power-on, and a pin reset in the clear and after it. -/
theorem resetsEmptyTheLink : Obligations.ResetsEmptyTheLink := by
  unfold Obligations.ResetsEmptyTheLink
  intro rate1 rate0 s rate empty
  have hempty : Link.reset (LineRate.ofStraps rate1 rate0) = empty := by
    cases rate1 <;> cases rate0 <;> rfl
  refine ⟨?_, fun c hc => ?_, fun hc => ?_⟩
  · exact ⟨s.powerOn (LineRate.ofStraps rate1 rate0), _, rfl, hempty, rfl, rfl, rfl, rfl, rfl, rfl⟩
  · obtain ⟨c', hclear, hnext, hepoch⟩ := s.store.resetInClear_restarts c (Config.resetKeepsNew s.freeIndex)
    have hreset : s.pinReset (LineRate.ofStraps rate1 rate0) = { s.drawn with
        link := Link.reset (LineRate.ofStraps rate1 rate0)
        store := s.store.resetInClear c (Config.resetKeepsNew s.freeIndex)
        job := none } := by
      unfold State.pinReset
      rw [hc]
    refine ⟨s.pinReset (LineRate.ofStraps rate1 rate0), c', rfl, ?_⟩
    rw [hreset]
    exact ⟨hempty, rfl, hclear, hnext, hepoch⟩
  · obtain ⟨hclear, hfree, hgranted⟩ := Store.resetAfterClear_free (Config.resetKeepsNew s.freeIndex) hc
    have hreset : s.pinReset (LineRate.ofStraps rate1 rate0) = { s.drawn with
        link := ((Link.reset (LineRate.ofStraps rate1 rate0)).post (.ready .pin)).transmit
        store := s.store.resetAfterClear (Config.resetKeepsNew s.freeIndex)
        job := none } := by
      unfold State.pinReset
      rw [hc]
      rfl
    refine ⟨s.pinReset (LineRate.ofStraps rate1 rate0), rfl, ?_⟩
    rw [hreset, Link.reset_ready, hempty]
    exact ⟨rfl, rfl, hclear, hfree, hgranted, s.store.resetAfterClear_cells _⟩

end Sys2Proof.Machine
end

section
/-! The frame receiver (R167 to R172). -/

namespace Sys2Proof.Machine

/-! ### Frames that are discarded or taken -/

section

variable {frame : Bytes} (s : State)

theorem State.completeFrame_badCrc (h : frameCrcOk frame = false) : s.completeFrame frame = s.mapLink (Link.discard .crc) :=
  if_pos (by rw [h]; rfl)

theorem State.completeFrame_badKind (hcrc : frameCrcOk frame = true) (hkind : frameKindOk frame = false) :
    s.completeFrame frame = s.mapLink (Link.discard .kind) :=
  (if_neg (by rw [hcrc]; exact Bool.false_ne_true)).trans (if_pos (by rw [hkind]; rfl))

theorem State.completeFrame_good (hcrc : frameCrcOk frame = true) (hkind : frameKindOk frame = true) :
    s.completeFrame frame = s.takeFrame (frameTag frame) (frameCode frame) (frameBody frame) :=
  (if_neg (by rw [hcrc]; exact Bool.false_ne_true)).trans (if_neg (by rw [hkind]; exact Bool.false_ne_true))

end

/-- Settles O46: a frame too long, one with a gap, one with a bad CRC and one of another kind, each counted once. -/
theorem badFramesDiscarded : Obligations.BadFramesDiscarded := by
  unfold Obligations.BadFramesDiscarded
  intro s frame held
  refine ⟨rfl, fun h => ?_, fun h => ?_, fun hcrc => ?_, fun hcrc hkind => ?_⟩
  · show execFrameGapExpiry s = _
    unfold execFrameGapExpiry
    rw [h]
    rfl
  · show execFrameGapExpiry s = _
    unfold execFrameGapExpiry
    rw [h]
  · exact congrArg Host.Outcome.next (s.completeFrame_badCrc hcrc)
  · exact congrArg Host.Outcome.next (s.completeFrame_badKind hcrc hkind)

/-! ### A byte on RXD -/

theorem State.receiveByte_hunting {s : State} (h : s.link.receiver = .hunting) (b : Byte) :
    s.receiveByte b = if b = 0xB5 then s.receive (.assembling []) else s := by
  unfold State.receiveByte
  rw [h]

section

variable {s : State} {held : Bytes} (h : s.link.receiver = .assembling held) {b : Byte}
include h

theorem State.receiveByte_assembling :
    s.receiveByte b = if frameTooLong (held ++ [b]) then s.mapLink (Link.discard .length)
      else if frameComplete (held ++ [b]) then s.completeFrame (held ++ [b]) else s.receive (.assembling (held ++ [b])) := by
  unfold State.receiveByte
  rw [h]

/-- The second byte of a body length above 520. -/
theorem State.receiveByte_tooLong (h1 : held.length = 1) (h2 : 520 < frameBodyLength (held ++ [b])) :
    s.receiveByte b = s.mapLink (Link.discard .length) := by
  rw [State.receiveByte_assembling h]
  exact if_pos (by simp [frameTooLong, h1, h2])

/-- A byte before the last. -/
theorem State.receiveByte_more (hmore : held.length = 0 ∨ (held.length = 1 ∧ frameBodyLength (held ++ [b]) ≤ 520)
    ∨ (2 ≤ held.length ∧ held.length + 1 < 7 + frameBodyLength (held ++ [b]))) :
    s.receiveByte b = s.receive (.assembling (held ++ [b])) := by
  rw [State.receiveByte_assembling h]
  refine (if_neg ?_).trans (if_neg ?_)
  · simp only [frameTooLong, List.length_append, List.length_singleton, Bool.and_eq_true, beq_iff_eq, decide_eq_true_iff, Config.maxBody]
    omega
  · simp only [frameComplete, List.length_append, List.length_singleton, Bool.and_eq_true, decide_eq_true_iff]
    omega

/-- The last CRC byte. -/
theorem State.receiveByte_last (h2 : held.length + 1 = 7 + frameBodyLength (held ++ [b])) :
    s.receiveByte b = s.completeFrame (held ++ [b]) := by
  rw [State.receiveByte_assembling h]
  refine (if_neg ?_).trans (if_pos ?_)
  · simp only [frameTooLong, List.length_append, List.length_singleton, Bool.and_eq_true, beq_iff_eq, decide_eq_true_iff, Config.maxBody]
    omega
  · simp only [frameComplete, List.length_append, List.length_singleton, Bool.and_eq_true, decide_eq_true_iff]
    omega

end

/-- Settles O47: a byte while hunting, each byte of a frame, and what a complete frame is taken as. -/
theorem receiverAssembles : Obligations.ReceiverAssembles := by
  unfold Obligations.ReceiverAssembles
  refine ⟨fun s b => ⟨fun h hb => ?_, fun h hb => ?_, fun held h => ⟨fun h1 h2 => ?_, fun hmore => ?_, fun h1 h2 => ⟨fun hbad => ?_,
    fun hcrc hkind hcode => ?_⟩⟩⟩, fun c tag code b body held s hr hc h h1 h2 hcrc hkind htag hcode hbody => ?_⟩
  · exact congrArg Host.Outcome.next ((State.receiveByte_hunting h b).trans (if_neg hb))
  · exact congrArg Host.Outcome.next ((State.receiveByte_hunting h b).trans (if_pos hb))
  · exact congrArg Host.Outcome.next (State.receiveByte_tooLong h h1 h2)
  · exact congrArg Host.Outcome.next (State.receiveByte_more h hmore)
  · exact congrArg Host.Outcome.next (State.receiveByte_last h h2)
  · exact congrArg Host.Outcome.next ((State.receiveByte_last h h2).trans (s.completeFrame_good hcrc hkind))
  · rw [exec_request ⟨hr, hc⟩]
    refine congrArg Host.Outcome.next ((State.receiveByte_last h h2).trans ((s.completeFrame_good hcrc hkind).trans ?_))
    rw [htag, hcode, hbody]
    exact State.takeFrame_request ⟨hr, hc⟩ s

end Sys2Proof.Machine
end

section
/-! The transmitter and its frames (R173, R174, R182, R183, R186). -/

namespace Sys2Proof.Machine

/-! ### The choice of the next frame -/

theorem find_unsent_none {ns : List HeldNotice} (h : ∀ n ∈ ns, n.sent = true) : ns.find? (fun n => !n.sent) = none := by
  rw [List.find?_eq_none]
  intro n hn
  rw [h n hn]
  exact Bool.false_ne_true

theorem find_unsent_first {before after : List HeldNotice} {n : HeldNotice} (hbefore : ∀ m ∈ before, m.sent = true)
    (hn : n.sent = false) : (before ++ n :: after).find? (fun n => !n.sent) = some n := by
  rw [List.find?_eq_some_iff_append]
  exact ⟨by rw [hn]; rfl, before, after, rfl, fun m hm => by rw [hbefore m hm]; rfl⟩

/-- The notices before the first unsent one stay as they are. -/
theorem markFirstUnsent_first {before after : List HeldNotice} {n : HeldNotice} (hbefore : ∀ m ∈ before, m.sent = true)
    (hn : n.sent = false) : markFirstUnsent (before ++ n :: after) = before ++ { n with sent := true } :: after := by
  induction before with
  | nil => exact if_neg (by rw [hn]; exact Bool.false_ne_true)
  | cons m before ih =>
    refine (if_pos (hbefore m (List.mem_cons_self ..))).trans ?_
    exact congrArg (m :: ·) (ih (fun k hk => hbefore k (List.mem_cons_of_mem _ hk)))

section

variable {l : Link} (hidle : l.sending = none)
include hidle

/-- A reply goes before a notice while fewer than four replies have gone. -/
theorem Link.transmit_reply {r : Reply} {rest : List Reply} (hr : l.replies = r :: rest) (hrun : l.replyRun < 4) :
    l.transmit = { l with sending := some (.reply r) } := by
  unfold Link.transmit
  rw [hidle, hr]
  dsimp only
  cases l.notices.find? (fun n => !n.sent) with
  | none => rfl
  | some n => exact if_neg (Nat.not_le.mpr hrun)

/-- A reply goes when no notice is unsent. -/
theorem Link.transmit_onlyReply {r : Reply} {rest : List Reply} (hr : l.replies = r :: rest) (hsent : ∀ n ∈ l.notices, n.sent = true) :
    l.transmit = { l with sending := some (.reply r) } := by
  unfold Link.transmit
  rw [hidle, hr, find_unsent_none hsent]

theorem Link.transmit_nothing (hr : l.replies = []) (hsent : ∀ n ∈ l.notices, n.sent = true) : l.transmit = l := by
  unfold Link.transmit
  rw [hidle, hr, find_unsent_none hsent]

/-- The first unsent notice goes, and is marked sent. -/
theorem Link.transmit_firstNotice {before after : List HeldNotice} {n : HeldNotice} (hn : l.notices = before ++ n :: after)
    (hbefore : ∀ m ∈ before, m.sent = true) (hunsent : n.sent = false) (h : l.replies = [] ∨ l.replyRun = 4) :
    l.transmit = { l with
      sending := some (.notice n.notice n.sequence)
      notices := before ++ { n with sent := true } :: after } := by
  have hfind : l.notices.find? (fun n => !n.sent) = some n := by
    rw [hn]
    exact find_unsent_first hbefore hunsent
  rw [Link.transmit_notice hidle hfind (h.imp id (fun h => h.ge)), Link.sendNotice, hn, markFirstUnsent_first hbefore hunsent]

end

/-! ### The bytes of a frame -/

theorem fromLe_le16 {n : Nat} (h : n < 65536) : fromLe (le16 n) = n := by
  simp only [le16, fromLe, BitVec.toNat_ofNat]
  omega

/-- A number put in two bytes at the end is read back there. -/
theorem field_append_le16 (fields : Bytes) {n : Nat} (h : n < 65536) : field (fields ++ le16 n) fields.length 2 = n := by
  unfold field
  rw [List.drop_left]
  exact fromLe_le16 h

/-- Fields followed by their CRC-16 have a good CRC (R169). -/
theorem frameCrcOk_append (fields : Bytes) : frameCrcOk (fields ++ le16 (crc16 fields).toNat) = true := by
  have hlength : (fields ++ le16 (crc16 fields).toNat).length - 2 = fields.length := by simp [le16]
  unfold frameCrcOk
  rw [hlength, List.take_left, field_append_le16 fields (crc16 fields).isLt]
  exact beq_self_eq_true _

theorem frameBytes_length (kind tag code : Byte) (body : Bytes) : (frameBytes kind tag code body).length = body.length + 8 := by
  simp only [frameBytes, le16, List.length_append, List.length_cons, List.length_nil]
  omega

/-- Settles O48: the end of a frame, the choice of the next, and the bytes of frames and replies. -/
theorem transmitterChooses : Obligations.TransmitterChooses := by
  unfold Obligations.TransmitterChooses
  refine ⟨fun s => ⟨fun h => ?_, fun r h => ?_, fun n number h => ?_⟩, fun l => ⟨fun f hf => Link.transmit_busy (by rw [hf]; rfl), fun hidle =>
      ⟨fun r rest => Link.transmit_reply hidle, fun r rest => Link.transmit_onlyReply hidle, Link.transmit_nothing hidle,
        fun before n after => Link.transmit_firstNotice hidle⟩⟩,
    fun r n number => ⟨rfl, frameBytes_length _ _ _ _, rfl, frameBytes_length _ _ _ _⟩, fun kind tag code body => frameCrcOk_append _,
    ⟨rfl, fun _ => rfl, fun _ _ _ => rfl, fun _ _ _ => rfl, fun _ _ _ _ => rfl, fun _ _ => rfl, fun _ _ => rfl, fun _ => rfl,
      fun _ _ => rfl, fun _ => rfl⟩, rfl, rfl, rfl⟩
  · refine congrArg (fun l => Host.Outcome.next { s with link := l }) ?_
    unfold Link.endFrame
    rw [h]
  · refine congrArg (fun l => Host.Outcome.next { s with link := l }) ?_
    unfold Link.endFrame
    rw [h]
    rfl
  · refine congrArg (fun l => Host.Outcome.next { s with link := l }) ?_
    unfold Link.endFrame
    rw [h]

end Sys2Proof.Machine
end

section
/-! The notice queue and the bytes of notices (R175 to R178, R183, R187, R188). -/

namespace Sys2Proof.Machine

/-! ### The queue -/

theorem Link.post_room {l : Link} (h : l.notices.length < 8) (n : Notice) :
    l.post n = { l with notices := l.notices ++ [⟨n, l.nextNotice, false⟩], nextNotice := l.nextNotice + 1 } := if_pos h

theorem Link.post_full {l : Link} (h : 8 ≤ l.notices.length) (n : Notice) : l.post n = { l with dropped := min (l.dropped + 1) 255 } :=
  if_neg (Nat.not_lt.mpr h)

/-- NOTICE_OVERFLOW takes the place freed when notices were dropped (R178). -/
theorem Link.enterOverflow_eq {l : Link} (h : l.notices.length < 8) :
    l.enterOverflow = { l with
      notices := if l.dropped = 0 then l.notices else l.notices ++ [⟨.noticeOverflow l.dropped, l.nextNotice, false⟩]
      nextNotice := if l.dropped = 0 then l.nextNotice else l.nextNotice + 1
      dropped := 0 } := by
  unfold Link.enterOverflow
  by_cases hd : l.dropped = 0
  · rw [if_pos hd, if_pos hd, if_pos hd]
    cases l
    cases hd
    rfl
  · rw [if_neg hd, if_neg hd, if_neg hd, Link.post_room h]

/-- The place of the first element that passes. -/
theorem findIdx?_first {α : Type} {p : α → Bool} {before after : List α} {a : α} (hbefore : ∀ b ∈ before, p b = false) (ha : p a = true) :
    (before ++ a :: after).findIdx? p = some before.length := by
  rw [List.findIdx?_append, List.findIdx?_eq_none_iff.mpr hbefore, List.findIdx?_cons, ha]
  exact congrArg some (Nat.zero_add _)

section

variable {s : State} {tag : Byte} {body : Bytes}

theorem State.Accepts.exec_ackNotices (h : s.Accepts tag 0x50 body) :
    exec (.ackNotices tag body) s = .next ((State.ackNotices tag body (s.entered tag 0x50)).transmit) := by
  rw [exec_request ⟨rfl, rfl⟩, h.request_eq]
  rfl

theorem State.ackNotices_unknown (h : ∀ n ∈ s.link.notices, n.sequence ≠ BitVec.ofNat 8 (field body 0 1)) :
    State.ackNotices tag body s = s.reply tag .badParam (.badField 1) := by
  have hnone : s.link.notices.findIdx? (fun n => n.sequence == ackNumber body) = none :=
    List.findIdx?_eq_none_iff.mpr (fun n hn => beq_eq_false_iff_ne.mpr (h n hn))
  unfold State.ackNotices
  rw [hnone]

theorem State.ackNotices_held {before after : List HeldNotice} {n : HeldNotice} (hn : s.link.notices = before ++ n :: after)
    (hsequence : n.sequence = BitVec.ofNat 8 (field body 0 1)) (hbefore : ∀ m ∈ before, m.sequence ≠ n.sequence)
    (hlength : s.link.notices.length ≤ 8) :
    let left := if s.link.dropped = 0 then after else after ++ [⟨.noticeOverflow s.link.dropped, s.link.nextNotice, false⟩]
    State.ackNotices tag body s = ({ s with link := { s.link with
      notices := left
      nextNotice := if s.link.dropped = 0 then s.link.nextNotice else s.link.nextNotice + 1
      dropped := 0 } } : State).reply tag .ok (.acked (before.length + 1) left.length) := by
  have hplace : s.link.notices.findIdx? (fun n => n.sequence == ackNumber body) = some before.length := by
    rw [hn]
    exact findIdx?_first (fun m hm => beq_eq_false_iff_ne.mpr (fun h => hbefore m hm (h.trans hsequence.symm))) (beq_iff_eq.mpr hsequence)
  have hleft : s.link.notices.drop (before.length + 1) = after := by
    rw [hn, ← List.drop_drop, List.drop_left]
    rfl
  have hroom : after.length < 8 := by
    rw [hn, List.length_append, List.length_cons] at hlength
    omega
  unfold State.ackNotices State.mapLink
  rw [hplace]
  dsimp only
  rw [hleft, Link.enterOverflow_eq (l := { s.link with notices := after }) hroom]

end

/-! ### Bytes of the notices -/

theorem le16_orZero (o : Option Nat) : le16 (orZero o) = fieldOrZero o := by
  cases o with
  | none => rfl
  | some n => rfl

/-- A run count above 65535 is sent as 65535 (R188). -/
theorem runCountBytes_eq (count : Nat) : runCountBytes count = if 65535 < count then [0xFF, 0xFF] else le16 count := by
  unfold runCountBytes
  split
  · next h =>
    rw [Nat.min_eq_right h.le]
    rfl
  · next h => rw [Nat.min_eq_left (Nat.not_lt.mp h)]

theorem FaultRecord.presence_eq (f : FaultRecord) :
    f.presence = (if f.inSection? = none then 0 else 1) + (if f.block? = none then 0 else 2) := by
  unfold FaultRecord.presence
  cases f.inSection? <;> cases f.block? <;> rfl

theorem Notice.fault_bytes (job : Word16) (f : FaultRecord) :
    (Notice.fault job f).bytes
      = le16 job.toNat ++ le8 ((if f.inSection? = none then 0 else 1) + (if f.block? = none then 0 else 2)) ++ [f.code.code, f.code.origin.code]
        ++ fieldOrZero (f.inSection?.map (fun v => v.toNat)) ++ fieldOrZero f.block?
        ++ fieldOrZero (f.place?.map (fun v => v.sequence.toNat)) ++ fieldOrZero (f.place?.map (fun v => v.offset))
        ++ le8 f.secondary := by
  unfold Notice.bytes
  simp only [le16_orZero, FaultRecord.presence_eq]

theorem Notice.mismatch_bytes (job number : Word16) (start count : Nat) (failing : Option Nat) :
    (Notice.mismatch job number start count failing).bytes = le16 job.toNat ++ le16 number.toNat ++ le16 start ++ le8 count
      ++ [if failing = none then 1 else 2] ++ fieldOrZero failing := by
  unfold Notice.bytes
  dsimp only
  rw [le16_orZero]
  cases failing with
  | none => rfl
  | some b => rfl

/-- Settles O49: a notice posted, ACK_NOTICES and REPLAY_NOTICES, and the codes and bytes of the notices. -/
theorem noticeQueueRules : Obligations.NoticeQueueRules := by
  unfold Obligations.NoticeQueueRules
  refine ⟨fun l n => ⟨fun h => Link.post_room h n, fun h => Link.post_full h n⟩, fun tag body s =>
    ⟨fun haccepts hnone => ?_, fun haccepts before n after hn hsequence hbefore hlength => ?_, fun haccepts => ?_⟩, fun job => ?_, rfl, rfl⟩
  · rw [haccepts.exec_ackNotices, State.ackNotices_unknown (s := s.entered tag 0x50) hnone]
    rfl
  · rw [haccepts.exec_ackNotices, State.ackNotices_held (s := s.entered tag 0x50) hn hsequence hbefore hlength]
    rfl
  · rw [exec_request ⟨rfl, rfl⟩, haccepts.request_eq]
    rfl
  · intro id
    refine ⟨fun _ => ⟨rfl, rfl⟩, fun _ blocks sections => ⟨rfl, ?_⟩, fun f => ⟨rfl, ?_, Notice.fault_bytes job f⟩, fun _ _ _ => ⟨rfl, rfl⟩,
      fun number start count failing => ⟨rfl, Notice.mismatch_bytes job number start count failing⟩, fun _ _ _ _ _ => ⟨rfl, rfl⟩,
      fun _ => ⟨rfl, rfl⟩, fun _ _ => ⟨rfl, rfl⟩, fun range _ => ⟨rfl, ?_⟩, fun _ _ => ⟨rfl, rfl⟩, fun _ _ => ⟨rfl, rfl⟩,
      fun _ => ⟨rfl, ?_⟩, ⟨rfl, rfl⟩, fun _ => ⟨rfl, rfl⟩⟩
    · unfold Notice.bytes
      dsimp only
      rw [runCountBytes_eq, runCountBytes_eq]
    · rfl
    · unfold Notice.bytes BlockRange.bytes
      dsimp only
      simp only [id, List.append_assoc]
    · rfl

end Sys2Proof.Machine
end

section
/-! The STATUS reply and its bytes (R19, R183, R186, R188), and the state at power-on (R163). -/

namespace Sys2Proof.Machine

/-- The fault fields of a STATUS body (R186). -/
theorem statusFaultBytes_eq (r : Option FaultRecord) :
    statusFaultBytes r = match r with
      | some f => [f.code.code, f.code.origin.code] ++ fieldOrZero (f.inSection?.map (fun v => v.toNat)) ++ fieldOrZero f.block?
          ++ fieldOrZero (f.place?.map (fun v => v.sequence.toNat)) ++ fieldOrZero (f.place?.map (fun v => v.offset)) ++ le8 f.secondary
      | none => List.replicate 11 0 := by
  cases r with
  | none => rfl
  | some f =>
    unfold statusFaultBytes
    dsimp only
    rw [le16_orZero, le16_orZero, le16_orZero, le16_orZero]

/-- The presence byte of a STATUS body (R186). -/
theorem JobStatus.presence_eq (j : JobStatus) :
    j.presence = 1 + (if j.stopReason = none then 0 else 2) + (if j.faultRecord = none then 0 else 4)
      + (if j.endRecord.digest = none then 0 else 8)
      + (match j.faultRecord with
        | some f => (if f.inSection? = none then 0 else 16) + (if f.block? = none then 0 else 32)
        | none => 0) := by
  have hsome {α : Type} (o : Option α) (n : Nat) : (if o.isSome = true then n else 0) = if o = none then 0 else n := by
    cases o with
    | none => rfl
    | some a => rfl
  unfold JobStatus.presence
  simp only [hsome]
  cases j.faultRecord with
  | none => rfl
  | some f => exact Nat.add_assoc _ _ _

/-- The image digest of a STATUS body, zero where there is none (R188). -/
theorem le32_orZero (digest : Option Word32) :
    le32 (orZero (digest.map BitVec.toNat)) = match digest with
      | some digest => le32 digest.toNat
      | none => [0, 0, 0, 0] := by
  cases digest with
  | none => rfl
  | some digest => rfl

/-- The bytes of a STATUS body with no job. -/
theorem StatusSnapshot.bytes_noJob {n : StatusSnapshot} (h : n.job = none) :
    n.bytes = List.replicate 79 0 ++ n.errors.bytes ++ le8 n.dropped := by
  unfold StatusSnapshot.bytes
  rw [h]

theorem StatusSnapshot.bytes_length (n : StatusSnapshot) : n.bytes.length = 92 := by
  have hfault (r : Option FaultRecord) : (statusFaultBytes r).length = 11 := by
    cases r with
    | none => rfl
    | some f => rfl
  unfold StatusSnapshot.bytes
  cases n.job with
  | none => rfl
  | some j =>
    simp only [List.length_append, List.length_cons, List.length_nil, hfault, le8, le16, le32, JobCounters.bytes, LinkErrors.bytes]

theorem StatusSnapshot.bytes_job {n : StatusSnapshot} {j : JobStatus} (h : n.job = some j) :
    n.bytes = [j.phase.code] ++ le8 j.presence ++ le16 j.jobId.toNat
      ++ [match j.stopReason with
        | some r => r.code
        | none => 0]
      ++ [if j.endRecord.seen then 1 else 0]
      ++ le32 (orZero (j.endRecord.digest.map BitVec.toNat)) ++ statusFaultBytes j.faultRecord ++ j.counters.bytes
      ++ [if j.decoderRunning then 1 else 0, if j.inSection then 1 else 0] ++ le16 j.frontier ++ le8 j.repairCount
      ++ [if j.overflow then 1 else 0] ++ le16 j.windowBase.toNat ++ le8 j.heldParcels ++ le8 j.queuedItems ++ le16 j.ringHeld
      ++ le8 j.tasksHeld ++ [if j.taskInProgress then 1 else 0] ++ n.errors.bytes ++ le8 n.dropped := by
  unfold StatusSnapshot.bytes
  rw [h]
  rfl

/-- Settles O8: the snapshot, its layout with and without a job, and the codes. -/
theorem statusAnswersSnapshot : Obligations.StatusAnswersSnapshot := by
  unfold Obligations.StatusAnswersSnapshot
  refine ⟨fun tag body s haccepts => ?_, fun n => ⟨n.bytes_length, fun h => ?_, fun j h => ?_⟩, rfl, rfl, rfl, rfl, rfl, rfl⟩
  · rw [exec_request ⟨rfl, rfl⟩]
    refine congrArg Host.Outcome.next ((haccepts.request_reply .ok (.status s.snapshot)).trans ?_)
    rfl
  · rw [StatusSnapshot.bytes_noJob h, List.append_assoc]
    rfl
  · intro presence
    rw [StatusSnapshot.bytes_job h, JobStatus.presence_eq, le32_orZero, statusFaultBytes_eq]
    simp only [presence, JobCounters.bytes, LinkErrors.bytes, List.append_assoc] <;> rfl

/-- Settles O59: at power-on there is no job, no notice, no request and no store transaction. -/
theorem resetMeetsTheLaws : Obligations.ResetMeetsTheLaws := by
  unfold Obligations.ResetMeetsTheLaws
  have hnone (P : Job → Prop) : State.reset.jobHas P := fun j hj => nomatch hj
  refine ⟨⟨List.Pairwise.nil, fun _ h => nomatch h⟩, ⟨Nat.zero_le _, rfl⟩,
    ⟨Nat.zero_le _, List.nodup_nil, List.Perm.refl _, fun _ h => nomatch h⟩, by unfold Link.CountersInWidth; decide,
    hnone _, hnone _, hnone _, hnone _, hnone _, hnone _, fun _ => ⟨rfl, rfl⟩, rfl⟩

end Sys2Proof.Machine
end

section
/-! SD's part of the laws of the repair list: the items on their way follow one another, and SD's place in its section agrees with them
(R52, R79, R89, R90). -/

namespace Sys2Proof.Machine

/-! ### Runs of items -/

theorem dueAfter_append (due : Option Nat) (first rest : List Item) :
    dueAfter due (first ++ rest) = dueAfter (dueAfter due first) rest := List.foldl_append

theorem itemsFollow_append (first rest : List Item) :
    ∀ due : Option Nat, itemsFollow due (first ++ rest) ↔ itemsFollow due first ∧ itemsFollow (dueAfter due first) rest := by
  induction first with
  | nil => exact fun due => ⟨fun h => ⟨trivial, h⟩, fun h => h.2⟩
  | cons i first ih =>
    intro due
    show i.follows due ∧ itemsFollow (i.dueAfter due) (first ++ rest) ↔ (i.follows due ∧ itemsFollow (i.dueAfter due) first) ∧ _
    rw [ih, and_assoc]
    rfl

/-! ### SD's place after a byte -/

/-- A completed directive gives its BLOCK item, and its section's SECTION_END where it completes a section without a digest (R52, R79). -/
theorem Decoder.finishDirective_cases {c : SectionContext} {p : PartialDirective} {ring ring' : Ring} {d d' : Decoder} {items : List Item}
    (h : d.finishDirective c p ring = .done d' ring' items) :
    ∃ item : BlockItem, item.block = p.block?.getD 0 ∧ item.increment = p.increment ∧
      (item.block + 1 = c.start + c.count ∧ d' = { d with position := .trailer, record := .bytes [] } ∧ items = [.block item] ∨
        item.block + 1 = c.start + c.count ∧ items = [.block item, .sectionEnd c.number c.start c.count none] ∧
          d' = { d with position := .markerExpected, record := .nothing, context := some { c with endPushed := true } } ∨
        d' = { d with position := .lead, record := .nothing } ∧ items = [.block item]) := by
  unfold Decoder.finishDirective at h
  dsimp only at h
  split at h
  · next hlast =>
    split at h
    · cases h
      exact ⟨_, rfl, rfl, Or.inl ⟨hlast, rfl, rfl⟩⟩
    · cases h
      exact ⟨_, rfl, rfl, Or.inr (Or.inl ⟨hlast, rfl, rfl⟩)⟩
  · cases h
    exact ⟨_, rfl, rfl, Or.inr (Or.inr ⟨rfl, rfl⟩)⟩

/-- A byte parsed moves neither SD's state nor its fault mark. -/
theorem Parsed.marks {n : Nat} {ring ring' : Ring} {d d' : Decoder} {items : List Item} (h : Parsed n ring d d' ring' items) :
    d'.running = d.running ∧ d'.faultMark = d.faultMark := by
  cases h with
  | inside c p d' ring' items hpos hc hrec b h =>
    cases Decoder.directiveByte_cases hc h with
    | finished c' p' d' items h ring' hf =>
      obtain ⟨item, _, _, ⟨_, rfl, _⟩ | ⟨_, _, rfl⟩ | ⟨rfl, _⟩⟩ := Decoder.finishDirective_cases hf
      all_goals exact ⟨rfl, rfl⟩
    | _ => exact ⟨rfl, rfl⟩
  | _ => exact ⟨rfl, rfl⟩

/-- A directive in hand, placed or not, where SD stands in a section. -/
theorem Decoder.placeFits_directive {due : Option Nat} {d : Decoder} {c : SectionContext} {p : PartialDirective}
    (hpos : d.position = .directive) (hc : d.context = some c) (hrec : d.record = .directive p) :
    d.placeFits due ↔ (p.stage = .increment → due = some c.due) ∧ (p.stage ≠ .increment →
      ∃ own, p.block? = some own ∧ c.lastPlaced = some own ∧ due = some (own + 1 - p.increment)) := by
  unfold Decoder.placeFits
  rw [hpos, hc, hrec]
  simp

/-- A directive that is complete: its item covers the next block due, and SD stands behind it. -/
theorem Decoder.finished_place {due : Option Nat} {c : SectionContext} {p : PartialDirective} {ring ring' : Ring} {d d' : Decoder}
    {items : List Item} {own : Nat} (h : d.finishDirective c p ring = .done d' ring' items) (hc : d.context = some c)
    (hb : p.block? = some own) (hlast : c.lastPlaced = some own) (hdue : due = some (own + 1 - p.increment)) :
    itemsFollow due items ∧ d'.placeFits (dueAfter due items) := by
  obtain ⟨item, hblock, hinc, hcases⟩ := Decoder.finishDirective_cases h
  have hown : item.block = own := by rw [hblock, hb]; rfl
  have hfollows : (Item.block item).follows due := by
    show due = some (item.block + 1 - item.increment)
    rw [hdue, hown, hinc]
  rcases hcases with ⟨hend, rfl, rfl⟩ | ⟨hend, rfl, rfl⟩ | ⟨rfl, rfl⟩
  · refine ⟨⟨hfollows, trivial⟩, fun c' hc' => ?_⟩
    cases hc.symm.trans hc'
    exact ⟨item.block + 1, rfl, hend.ge⟩
  · exact ⟨⟨hfollows, ⟨item.block + 1, rfl, hend.ge⟩, trivial⟩, fun c' hc' => trivial⟩
  · refine ⟨⟨hfollows, trivial⟩, fun c' hc' => ?_⟩
    cases hc.symm.trans hc'
    show some (item.block + 1) = some c.due
    rw [hown, SectionContext.due, hlast]

/-- A byte inside a directive: the items follow, and SD's place agrees. -/
theorem Directed.place {due : Option Nat} {c : SectionContext} {p : PartialDirective} {d d' : Decoder} {items : List Item}
    (h : Directed c p d d' items) (hpos : d.position = .directive) (hc : d.context = some c) (hrec : d.record = .directive p)
    (hplace : d.placeFits due) : itemsFollow due items ∧ d'.placeFits (dueAfter due items) := by
  obtain ⟨hfirst, hplaced⟩ := (Decoder.placeFits_directive hpos hc hrec).mp hplace
  cases h with
  | placed p' i hs hi hlt hb hinc hs' =>
    refine ⟨trivial, (Decoder.placeFits_directive (c := { c with lastPlaced := some (c.due + i - 1) })
      (d := { d with context := some { c with lastPlaced := some (c.due + i - 1) }, record := .directive p' }) hpos rfl rfl).mpr
      ⟨fun h => absurd h hs', fun _ => ⟨_, hb, rfl, ?_⟩⟩⟩
    show due = _
    rw [hfirst hs, hinc]
    exact congrArg some (by omega)
  | goesOn p' hs hb hinc hs' =>
    refine ⟨trivial, (Decoder.placeFits_directive (d := { d with record := .directive p' }) hpos hc rfl).mpr
      ⟨fun h => absurd h hs', fun _ => ?_⟩⟩
    rw [hb, hinc]
    exact hplaced hs
  | finished c' p' d' items h ring' hf =>
    rcases h with ⟨hs, i, hi, hlt, rfl, hb, hinc⟩ | ⟨hs, rfl, hb, hinc⟩
    · refine Decoder.finished_place hf rfl hb rfl ?_
      rw [hfirst hs, hinc]
      exact congrArg some (by omega)
    · obtain ⟨own, hown, hlast, hdue⟩ := hplaced hs
      exact Decoder.finished_place hf rfl (hb.trans hown) hlast (by rw [hinc]; exact hdue)

/-- A byte that joins the record in hand. -/
theorem Decoder.placeFits.withBytes {due : Option Nat} {d : Decoder} (h : d.placeFits due) (got : Bytes) :
    Decoder.placeFits due { d with record := .bytes got } := by
  obtain ⟨_, _, _, _, position, _, _, _, _, _, _⟩ := d
  intro c hc
  have hfits := h c hc
  cases position with
  | lead | trailer => exact hfits
  | seeking | endBody | header | directive | markerExpected => trivial

/-- A byte in the grammar: the items follow, and SD's place agrees. -/
theorem Parsed.place {n : Nat} {due : Option Nat} {ring ring' : Ring} {d d' : Decoder} {items : List Item}
    (h : Parsed n ring d d' ring' items) (hplace : d.placeFits due) : itemsFollow due items ∧ d'.placeFits (dueAfter due items) := by
  cases h with
  | kept => exact ⟨trivial, hplace⟩
  | held got => exact ⟨trivial, hplace.withBytes got⟩
  | ended digest => exact ⟨⟨trivial, trivial⟩, fun _ _ => trivial⟩
  | begun number start count hasDigest h =>
    refine ⟨⟨trivial, trivial⟩, fun c hc => ?_⟩
    cases hc
    rfl
  | led kind edits h =>
    refine ⟨trivial, fun c hc => ⟨fun _ => ?_, fun h => absurd rfl h⟩⟩
    have hfits := hplace c hc
    rw [h] at hfits
    exact hfits
  | inside c p d' ring' items hpos hc hrec b h => exact (Decoder.directiveByte_cases hc h).place hpos hc hrec hplace
  | trailed c digest hpos hc =>
    have hfits := hplace c hc
    rw [hpos] at hfits
    exact ⟨⟨hfits, trivial⟩, fun _ _ => trivial⟩

end Sys2Proof.Machine
end

section
/-! The laws of the repair list part by part, and SD's steps in them (R7, R15, R17, R90, R148). -/

namespace Sys2Proof.Machine

/-! ### The parts of the laws -/

/-- SD's part: the items on their way follow one another from a block due, SD's place agrees with them while SD may still go on, and SD's
state and mark belong to the job state. -/
structure Job.StreamLaw (due : Option Nat) (j : Job) : Prop where
  follow : itemsFollow due (j.queue ++ j.decoder.waitingOutput)
  place : j.decoder.running = true ∨ (j.decoder.faultMark = false ∧ j.phase ≠ .aborting) →
    j.decoder.placeFits (dueAfter due (j.queue ++ j.decoder.waitingOutput))
  running : j.decoder.running = true → j.phase = .running ∨ j.phase = .stopping ∨ j.phase = .quiescing ∨ j.phase = .aborting
  fault : j.decoder.faultMark = true →
    j.decoder.running = false ∧ (j.phase = .quiescing ∨ j.phase = .faulted ∨ j.phase = .aborting)

/-- The stops belong to ABORTING. -/
structure Job.StopsFit (j : Job) : Prop where
  decoder : j.signals.decoderStop = true → j.phase = .aborting
  unit : j.signals.unitStop = true → j.phase = .aborting
  order : j.unit.order = .stop → j.phase = .aborting

/-- RU's activity belongs to the job state, and what RU holds to its activity. -/
structure Job.ActivityFits (j : Job) : Prop where
  still : j.phase = .ready ∨ j.phase = .closing ∨ j.phase = .closed → j.unit.activity = .idle
  faulted : j.phase = .faulted → j.unit.activity = .idle ∨ j.unit.activity = .halted
  itemless : j.phase ≠ .aborting → j.unit.activity = .idle ∨ j.unit.activity = .fill → j.unit.item = none
  waits : j.unit.activity = .verifyWait → ∀ c, j.unit.item = some c → c.item.task? ≠ none
  fill : ∀ f, j.unit.fill = some f → f.first + f.count ≤ j.tracker.frontier

/-- VE's tasks lie below F, and its close is one of a full map. -/
structure Job.ChecksFit (j : Job) : Prop where
  tasks : ∀ t ∈ j.verifier.tasks, t.start + t.count ≤ j.tracker.frontier
  close : ∀ c, j.verifier.close = some c →
    c.next < j.tracker.map.length ∧ j.tracker.map.length ≤ j.tracker.frontier ∧ (j.phase = .closing ∨ j.phase = .aborting)

/-- While a scan stands, RU and VE have nothing in hand that alters the map but digest tasks. -/
def Job.ScanFits (j : Job) : Prop :=
  j.tracker.scan.isSome = true → j.unit.block = none ∧ j.verifier.close = none ∧
    (j.phase = .servicing ∧ j.unit.activity = .idle ∨ j.phase = .aborting)

/-- The laws of the repair list but for RU's item, for a block due. -/
structure Job.LawsBut (due : Option Nat) (j : Job) : Prop where
  target : j.InTarget
  lists : j.tracker.ListsInOrder
  list : j.tracker.ListExact
  scan : j.tracker.ScanExact
  block : j.unit.blockFits j.tracker.frontier
  stream : j.StreamLaw due
  stops : j.StopsFit
  activity : j.ActivityFits
  checks : j.ChecksFit
  scanning : j.ScanFits

/-- The laws of the repair list, for a block due. -/
structure Job.Laws (due : Option Nat) (j : Job) : Prop extends Job.LawsBut due j where
  item : j.unit.itemFits j.tracker.frontier due

theorem Job.listLaws_iff (j : Job) : j.ListLaws ↔ ∃ due, j.Laws due := by
  constructor
  · rintro ⟨htarget, hlists, hlist, hscan, ⟨due, hitem, hfollow, hplace⟩, hblock, hrunning, hfault, hdecoder, hunit, horder, hstill, hfaulted,
      hitemless, hwaits, hfill, htasks, hclose, hscanning⟩
    exact ⟨due, ⟨htarget, hlists, hlist, hscan, hblock, ⟨hfollow, hplace, hrunning, hfault⟩, ⟨hdecoder, hunit, horder⟩,
      ⟨hstill, hfaulted, hitemless, hwaits, hfill⟩, ⟨htasks, hclose⟩, hscanning⟩, hitem⟩
  · rintro ⟨due, ⟨htarget, hlists, hlist, hscan, hblock, ⟨hfollow, hplace, hrunning, hfault⟩, ⟨hdecoder, hunit, horder⟩,
      ⟨hstill, hfaulted, hitemless, hwaits, hfill⟩, ⟨htasks, hclose⟩, hscanning⟩, hitem⟩
    exact ⟨htarget, hlists, hlist, hscan, ⟨due, hitem, hfollow, hplace⟩, hblock, hrunning, hfault, hdecoder, hunit, horder, hstill, hfaulted,
      hitemless, hwaits, hfill, htasks, hclose, hscanning⟩

/-! ### Job states that a stop or a fault report moves on to -/

/-- A job state that a report of SD or RU can move on to: the same, or STOPPING or QUIESCING from a run. -/
def JobPhase.Slides (p p' : JobPhase) : Prop := p' = p ∨ p.inRun = true ∧ (p' = .stopping ∨ p' = .quiescing)

theorem JobPhase.Slides.trans {a b c : JobPhase} (h : a.Slides b) (g : b.Slides c) : a.Slides c := by
  rcases g with rfl | ⟨hb, hc⟩
  · exact h
  · rcases h with rfl | ⟨ha, _⟩
    · exact Or.inr ⟨hb, hc⟩
    · exact Or.inr ⟨ha, hc⟩

/-- A state outside a run stays as it is. -/
theorem JobPhase.Slides.of_still {p p' : JobPhase} (h : p.Slides p') (hp : p.inRun = false) : p' = p := by
  rcases h with h | ⟨hr, _⟩
  · exact h
  · cases hp.symm.trans hr

/-- A state that is not STOPPING or QUIESCING after a report was the same before. -/
theorem JobPhase.Slides.of_eq {p p' q : JobPhase} (h : p.Slides p') (hq : p' = q) (h1 : q ≠ .stopping) (h2 : q ≠ .quiescing) : p = q := by
  rcases h with h | ⟨_, h | h⟩
  · exact h.symm.trans hq
  · exact absurd (hq.symm.trans h) h1
  · exact absurd (hq.symm.trans h) h2

theorem JobPhase.Slides.aborting {p p' : JobPhase} (h : p.Slides p') : p' = .aborting ↔ p = .aborting := by
  refine ⟨fun hp => h.of_eq hp (by decide) (by decide), fun hp => ?_⟩
  exact (h.of_still (by rw [hp]; rfl)).trans hp

theorem Job.reportStop_slides (r : StopReason) (j : Job) : j.phase.Slides (j.reportStop r).phase := by
  unfold Job.reportStop
  split
  · next h => exact Or.inr ⟨by rw [h]; rfl, Or.inl rfl⟩
  · exact Or.inl rfl

theorem Job.reportFault_slides (r : FaultRecord) (j : Job) : j.phase.Slides (j.reportFault r).phase := by
  unfold Job.reportFault
  split
  · next h => exact Or.inr ⟨by rw [h]; rfl, Or.inr rfl⟩
  · next h => exact Or.inr ⟨by rw [h]; rfl, Or.inr rfl⟩
  all_goals exact Or.inl rfl

/-- After a fault report in a state in which SD or RU may work, the job is quiescing or being aborted. -/
theorem Job.reportFault_phase (r : FaultRecord) {j : Job}
    (h : j.phase = .running ∨ j.phase = .stopping ∨ j.phase = .quiescing ∨ j.phase = .aborting) :
    (j.reportFault r).phase = .quiescing ∨ (j.reportFault r).phase = .aborting := by
  have hrun : j.phase.inRun = true ∨ j.phase = .quiescing ∨ j.phase = .aborting := by
    rcases h with h | h | h
    · exact Or.inl (by rw [h]; rfl)
    · exact Or.inl (by rw [h]; rfl)
    · exact Or.inr h
  rcases hrun with hrun | hp | hp
  · rw [Job.reportFault_inRun hrun]
    exact Or.inl rfl
  · rw [Job.reportFault_quiescing hp]
    exact Or.inl hp
  · rw [Job.reportFault_discarded (by rw [hp]; rfl) (by rw [hp]; decide)]
    exact Or.inr hp

/-! ### SD's steps -/

/-- What SD's steps leave of the other blocks, and what they can do to the job state. -/
structure Job.Slides (j j' : Job) : Prop where
  unit : j'.unit = j.unit
  tracker : j'.tracker = j.tracker
  verifier : j'.verifier = j.verifier
  decoderStop : j'.signals.decoderStop = j.signals.decoderStop
  unitStop : j'.signals.unitStop = j.signals.unitStop
  phase : j.phase.Slides j'.phase

theorem Job.Slides.refl (j : Job) : j.Slides j := ⟨rfl, rfl, rfl, rfl, rfl, Or.inl rfl⟩

theorem Job.Slides.trans {a b c : Job} (h : a.Slides b) (g : b.Slides c) : a.Slides c :=
  ⟨g.unit.trans h.unit, g.tracker.trans h.tracker, g.verifier.trans h.verifier, g.decoderStop.trans h.decoderStop,
    g.unitStop.trans h.unitStop, h.phase.trans g.phase⟩

theorem Job.slides_reportStop (r : StopReason) (j : Job) : j.Slides (j.reportStop r) := by
  obtain ⟨phase, stopReason, he, _⟩ := j.reportStop_frame r
  have hphase := j.reportStop_slides r
  rw [he] at hphase ⊢
  exact ⟨rfl, rfl, rfl, rfl, rfl, hphase⟩

theorem Job.slides_reportFault (r : FaultRecord) (j : Job) : j.Slides (j.reportFault r) := by
  obtain ⟨phase, record, quiet, halt, quiescing, he, _⟩ := j.reportFault_frame r
  have hphase := j.reportFault_slides r
  rw [he] at hphase ⊢
  exact ⟨rfl, rfl, rfl, rfl, rfl, hphase⟩

theorem Decodes.slides {j j' : Job} (h : Decodes j j') : j.Slides j' := by
  have hown (d : Decoder) (queue : List Item) (ring : Ring) : j.Slides { j with decoder := d, queue := queue, ring := ring } :=
    ⟨rfl, rfl, rfl, rfl, rfl, Or.inl rfl⟩
  cases h with
  | parsed b d ring items hr hp => exact hown _ _ _
  | flushed => exact hown _ _ _
  | stopped reason hr => exact (hown { j.decoder with running := false } j.queue j.ring).trans (Job.slides_reportStop _ _)
  | faulted code number block place hr =>
    exact (hown { j.decoder with record := .nothing, running := false, faultMark := true, escape := .clear, waitingBytes := [] } j.queue
      (j.ring.freeNewest j.decoder.record.uncommitted)).trans (Job.slides_reportFault _ _)
  | waits bs => exact hown _ _ _
  | escaped e => exact hown _ _ _
  | opened o d h => exact hown _ _ _

theorem DecodesAll.slides {j j' : Job} (h : DecodesAll j j') : j.Slides j' :=
  h.keeps (P := fun k => j.Slides k) (fun _ _ hstep hk => hk.trans hstep.slides) (.refl j)

/-- SD's part after a change of SD that gives no item and leaves SD's place, its state and its mark. -/
theorem Job.StreamLaw.sameDecoder {due : Option Nat} {j : Job} (h : j.StreamLaw due) {d : Decoder} (hr : d.running = j.decoder.running)
    (hm : d.faultMark = j.decoder.faultMark) (ho : d.waitingOutput = j.decoder.waitingOutput)
    (hp : ∀ due, j.decoder.placeFits due → d.placeFits due) : Job.StreamLaw due { j with decoder := d } := by
  obtain ⟨hfollow, hplace, hrunning, hfault⟩ := h
  refine ⟨by rw [ho]; exact hfollow, fun hlive => ?_, fun h => hrunning (hr ▸ h), fun h => ?_⟩
  · rw [hr, hm] at hlive
    rw [ho]
    exact hp _ (hplace hlive)
  · rw [hr]
    exact hfault (hm ▸ h)

/-- SD's part when SD stops. -/
theorem Job.StreamLaw.stopped {due : Option Nat} {j : Job} (h : j.StreamLaw due) (hr : j.decoder.running = true) :
    j.stopDecoder.StreamLaw due :=
  ⟨h.follow, fun _ => h.place (Or.inl hr), fun hr => (nomatch hr), fun hm => ⟨rfl, (h.fault hm).2⟩⟩

/-- SD's part through a report that moves the job state on. -/
theorem Job.StreamLaw.slides {due : Option Nat} {j : Job} (h : j.StreamLaw due) {p : JobPhase} (hp : j.phase.Slides p) :
    Job.StreamLaw due { j with phase := p } := by
  obtain ⟨hfollow, hplace, hrunning, hfault⟩ := h
  refine ⟨hfollow, fun hlive => hplace (hlive.imp id (fun ⟨hm, ha⟩ => ⟨hm, fun h => ha (hp.aborting.mpr h)⟩)), fun hr => ?_, fun hm => ?_⟩
  · rcases hp with hp | ⟨_, hp | hp⟩
    · rw [show Job.phase { j with phase := p } = j.phase from hp]
      exact hrunning hr
    · exact Or.inr (Or.inl hp)
    · exact Or.inr (Or.inr (Or.inl hp))
  · obtain ⟨hr, hphase⟩ := hfault hm
    have hstill : j.phase.inRun = false := by rcases hphase with h | h | h <;> rw [h] <;> rfl
    refine ⟨hr, ?_⟩
    rw [show Job.phase { j with phase := p } = j.phase from hp.of_still hstill]
    exact hphase

/-- SD's part at a stop report. -/
theorem Job.StreamLaw.reportStop {due : Option Nat} {j : Job} (h : j.StreamLaw due) (r : StopReason) : (j.reportStop r).StreamLaw due := by
  have hphase := j.reportStop_slides r
  obtain ⟨phase, stopReason, he, _⟩ := j.reportStop_frame r
  rw [he] at hphase ⊢
  exact ⟨(h.slides hphase).follow, (h.slides hphase).place, (h.slides hphase).running, (h.slides hphase).fault⟩

/-- SD's part at a fault report of RU. -/
theorem Job.StreamLaw.reportFault {due : Option Nat} {j : Job} (h : j.StreamLaw due) (r : FaultRecord) : (j.reportFault r).StreamLaw due := by
  have hphase := j.reportFault_slides r
  obtain ⟨phase, record, quiet, halt, quiescing, he, _⟩ := j.reportFault_frame r
  rw [he] at hphase ⊢
  exact ⟨(h.slides hphase).follow, (h.slides hphase).place, (h.slides hphase).running, (h.slides hphase).fault⟩

/-- SD's part at its own fault. -/
theorem Job.StreamLaw.decoderFault {due : Option Nat} {j : Job} (h : j.StreamLaw due) (hr : j.decoder.running = true) (code : FaultCode)
    (number : Option Word16) (block : Option Nat) (place : StreamPlace) : (j.decoderFault code number block place).StreamLaw due := by
  unfold Job.decoderFault
  generalize hk : j.dropRecord.mapDecoder (fun d => { d with running := false, faultMark := true, escape := .clear, waitingBytes := [] }) = k
  have hphase := Job.reportFault_phase (.first code number block (some place)) (j := k) (by rw [← hk]; exact h.running hr)
  obtain ⟨phase, record, quiet, halt, quiescing, he, _⟩ := Job.reportFault_frame (.first code number block (some place)) k
  rw [he] at hphase ⊢
  subst hk
  exact ⟨h.follow, fun hlive => (by rcases hlive with hlive | ⟨hlive, _⟩ <;> cases hlive), fun h => (nomatch h),
    fun _ => ⟨rfl, hphase.imp id Or.inr⟩⟩

/-- A step of SD keeps SD's part. -/
theorem Decodes.streamLaw {due : Option Nat} {j j' : Job} (h : Decodes j j') (hj : j.StreamLaw due) : j'.StreamLaw due := by
  cases h with
  | parsed b d ring items hr hp =>
    have hparsed := Decoder.parse_cases hp
    obtain ⟨hrun, hmark⟩ := hparsed.marks
    obtain ⟨hitems, hplace⟩ := hparsed.place (hj.place (Or.inl hr))
    have hpath : j.queue ++ (d.waitingOutput ++ items) = (j.queue ++ j.decoder.waitingOutput) ++ items := by
      rw [hparsed.waitingOutput, List.append_assoc]
    refine ⟨?_, fun _ => ?_, fun h => hj.running hr, fun h => ?_⟩
    · show itemsFollow due (j.queue ++ (d.waitingOutput ++ items))
      rw [hpath, itemsFollow_append]
      exact ⟨hj.follow, hitems⟩
    · show Decoder.placeFits (dueAfter due (j.queue ++ (d.waitingOutput ++ items))) _
      rw [hpath, dueAfter_append]
      exact hplace
    · have := (hj.fault (hmark ▸ h)).1
      cases hr.symm.trans this
  | flushed =>
    have hpath : j.flushOutput.queue ++ j.flushOutput.decoder.waitingOutput = j.queue ++ j.decoder.waitingOutput := by
      show j.queue ++ j.decoder.waitingOutput.take _ ++ j.decoder.waitingOutput.drop _ = _
      rw [List.append_assoc, List.take_append_drop]
    refine ⟨?_, fun hlive => ?_, hj.running, hj.fault⟩
    · rw [hpath]
      exact hj.follow
    · rw [hpath]
      exact hj.place hlive
  | stopped reason hr => exact (hj.stopped hr).reportStop reason
  | faulted code number block place hr => exact hj.decoderFault hr code number block place
  | waits bs => exact hj.sameDecoder rfl rfl rfl (fun _ h => h)
  | escaped e => exact hj.sameDecoder rfl rfl rfl (fun _ h => h)
  | opened o d h =>
    unfold Decoder.marker at h
    split at h <;> cases h
    all_goals
      refine hj.sameDecoder rfl rfl rfl (fun due _ c hc => ?_)
      cases o <;> trivial

theorem DecodesAll.streamLaw {due : Option Nat} {j j' : Job} (h : DecodesAll j j') (hj : j.StreamLaw due) : j'.StreamLaw due :=
  h.keeps (P := Job.StreamLaw due) (fun _ _ hstep hk => hstep.streamLaw hk) hj

end Sys2Proof.Machine
end

section
/-! SD's events and orders in the laws of the repair list, and the end of an event (R14, R80, R87, R89, R94, R141, R144). -/

namespace Sys2Proof.Machine

/-! ### The other parts through a report -/

section

variable {j j' : Job} (hs : j.Slides j')
include hs

theorem Job.StopsFit.slides (h : j.StopsFit) : j'.StopsFit := by
  obtain ⟨hdecoder, hunit, horder⟩ := h
  refine ⟨fun hd => hs.phase.aborting.mpr (hdecoder (hs.decoderStop ▸ hd)), fun hu => hs.phase.aborting.mpr (hunit (hs.unitStop ▸ hu)),
    fun ho => hs.phase.aborting.mpr (horder (hs.unit ▸ ho))⟩

theorem Job.ActivityFits.slides (h : j.ActivityFits) : j'.ActivityFits := by
  obtain ⟨hstill, hfaulted, hitemless, hwaits, hfill⟩ := h
  have hp := hs.phase
  refine ⟨fun h => ?_, fun h => ?_, fun h => ?_, ?_, ?_⟩
  · rw [hs.unit]
    exact hstill (h.imp (fun h => hp.of_eq h (by decide) (by decide)) (Or.imp (fun h => hp.of_eq h (by decide) (by decide))
      (fun h => hp.of_eq h (by decide) (by decide))))
  · rw [hs.unit]
    exact hfaulted (hp.of_eq h (by decide) (by decide))
  · rw [hs.unit]
    exact hitemless (fun ha => h (hp.aborting.mpr ha))
  · rw [hs.unit]
    exact hwaits
  · rw [hs.unit, hs.tracker]
    exact hfill

theorem Job.ChecksFit.slides (h : j.ChecksFit) : j'.ChecksFit := by
  obtain ⟨htasks, hclose⟩ := h
  refine ⟨?_, fun c hc => ?_⟩
  · rw [hs.verifier, hs.tracker]
    exact htasks
  · rw [hs.verifier] at hc
    obtain ⟨h1, h2, h3⟩ := hclose c hc
    have hstill : j.phase.inRun = false := by rcases h3 with h3 | h3 <;> rw [h3] <;> rfl
    rw [hs.tracker, hs.phase.of_still hstill]
    exact ⟨h1, h2, h3⟩

theorem Job.ScanFits.slides (h : j.ScanFits) : j'.ScanFits := by
  intro hscan
  rw [hs.tracker] at hscan
  obtain ⟨h1, h2, h3⟩ := h hscan
  have hstill : j.phase.inRun = false := by rcases h3 with ⟨h3, _⟩ | h3 <;> rw [h3] <;> rfl
  rw [hs.unit, hs.verifier, hs.phase.of_still hstill]
  exact ⟨h1, h2, h3⟩

/-- A step of SD keeps the laws when it keeps SD's part and the block numbers. -/
theorem Job.LawsBut.slides {due : Option Nat} (h : j.LawsBut due) (ht : j'.InTarget) (hstream : j'.StreamLaw due) : j'.LawsBut due where
  target := ht
  lists := by rw [hs.tracker]; exact h.lists
  list := by rw [hs.tracker]; exact h.list
  scan := by rw [hs.tracker]; exact h.scan
  block := by rw [hs.tracker, hs.unit]; exact h.block
  stream := hstream
  stops := h.stops.slides hs
  activity := h.activity.slides hs
  checks := h.checks.slides hs
  scanning := h.scanning.slides hs

theorem Job.Laws.slides {due : Option Nat} (h : j.Laws due) (ht : j'.InTarget) (hstream : j'.StreamLaw due) : j'.Laws due :=
  ⟨h.toLawsBut.slides hs ht hstream, by rw [hs.tracker, hs.unit]; exact h.item⟩

end

/-- SD's processing keeps the laws. -/
theorem DecodesAll.lawsBut {due : Option Nat} {j j' : Job} (h : DecodesAll j j') (hj : j.LawsBut due) : j'.LawsBut due :=
  hj.slides h.slides (h.jobKeeps.starts.target hj.target) (h.streamLaw hj.stream)

theorem DecodesAll.laws {due : Option Nat} {j j' : Job} (h : DecodesAll j j') (hj : j.Laws due) : j'.Laws due :=
  hj.slides h.slides (h.jobKeeps.starts.target hj.target) (h.streamLaw hj.stream)

theorem Job.Laws.wakeDecoder {due : Option Nat} {j : Job} (h : j.Laws due) : j.wakeDecoder.Laws due := j.wakeDecoder_decodes.laws h

/-- A change of the window touches none of the laws. -/
theorem Job.Laws.withWindow {due : Option Nat} {j : Job} (h : j.Laws due) (window : Window) : Job.Laws due { j with window := window } := by
  have hs : j.Slides { j with window := window } := ⟨rfl, rfl, rfl, rfl, rfl, Or.inl rfl⟩
  exact h.slides hs ((j.keeps_window window).starts.target h.target)
    ⟨h.stream.follow, h.stream.place, h.stream.running, h.stream.fault⟩

/-- A change of the counters touches none of the laws. -/
theorem Job.Laws.count {due : Option Nat} {j : Job} (h : j.Laws due) (c : JobCounter) (k : Nat) : (j.count c k).Laws due := by
  have htarget := (Job.keeps_count c k j).starts.target h.target
  obtain ⟨counters, he⟩ := Job.count_eq c k j
  rw [he] at htarget ⊢
  have hs : j.Slides { j with counters := counters } := ⟨rfl, rfl, rfl, rfl, rfl, Or.inl rfl⟩
  exact h.slides hs htarget ⟨h.stream.follow, h.stream.place, h.stream.running, h.stream.fault⟩

theorem Job.Laws.takeByte {due : Option Nat} {j : Job} (h : j.Laws due) (hb : j.canTakeByte = true) : j.takeByte.Laws due := by
  obtain ⟨window, hrun⟩ := Job.takeByte_decodes hb
  exact hrun.laws (h.withWindow window)

/-! ### SD's orders -/

/-- A change of SD's own state that keeps its part keeps the laws. -/
theorem Job.Laws.withDecoder {due : Option Nat} {j : Job} (h : j.Laws due) {d : Decoder} {ring : Ring} {signals : Signals} {quiet : Bool}
    (ht : Job.InTarget { j with decoder := d, ring := ring, signals := signals, decoderQuiet := quiet })
    (hstop : signals.decoderStop = true → j.signals.decoderStop = true) (hunit : signals.unitStop = j.signals.unitStop)
    (hstream : Job.StreamLaw due { j with decoder := d, ring := ring, signals := signals, decoderQuiet := quiet }) :
    Job.Laws due { j with decoder := d, ring := ring, signals := signals, decoderQuiet := quiet } where
  target := ht
  lists := h.lists
  list := h.list
  scan := h.scan
  item := h.item
  block := h.block
  stream := hstream
  stops := ⟨fun hd => h.stops.decoder (hstop hd), fun hu => h.stops.unit (hunit ▸ hu), h.stops.order⟩
  activity := ⟨h.activity.still, h.activity.faulted, h.activity.itemless, h.activity.waits, h.activity.fill⟩
  checks := ⟨h.checks.tasks, h.checks.close⟩
  scanning := h.scanning

theorem Job.Laws.suspendDecoder {due : Option Nat} {j : Job} (h : j.Laws due) : j.suspendDecoder.Laws due := by
  have hsignal : Job.Laws due { j with signals := { j.signals with suspend := false } } :=
    h.withDecoder h.target id rfl ⟨h.stream.follow, h.stream.place, h.stream.running, h.stream.fault⟩
  unfold Job.suspendDecoder
  dsimp only
  split
  · next hr => exact DecodesAll.laws (j := { j with signals := { j.signals with suspend := false } }) (.single (.stopped .pause hr)) hsignal
  · exact hsignal

theorem Job.Laws.haltDecoder {due : Option Nat} {j : Job} (h : j.Laws due) : j.haltDecoder.Laws due := by
  refine h.withDecoder (j.keeps_haltDecoder.starts.target h.target) id rfl
    ⟨h.stream.follow, fun hlive => h.stream.place ?_, fun hr => (nomatch hr), fun hm => ⟨rfl, (h.stream.fault hm).2⟩⟩
  exact hlive.elim (fun hr => nomatch hr) Or.inr

/-- SD's stop in ABORTING: what it held is gone. -/
theorem Job.Laws.abortDecoder {due : Option Nat} {j : Job} (h : j.Laws due) (hp : j.phase = .aborting) : j.abortDecoder.Laws due := by
  refine h.withDecoder (j.keeps_abortDecoder.starts.target h.target) (fun hd => nomatch hd) rfl
    ⟨?_, fun hlive => ?_, fun hr => (nomatch hr), fun hm => ⟨rfl, (h.stream.fault hm).2⟩⟩
  · show itemsFollow due (j.queue ++ [])
    rw [List.append_nil]
    exact ((itemsFollow_append _ _ _).mp h.stream.follow).1
  · rcases hlive with hr | ⟨_, hlive⟩
    · cases hr
    · exact absurd hp hlive

/-! ### The discontinuity -/

/-- An ABANDON joins the output of SD outside a section. -/
theorem Job.Laws.produceAbandon {due : Option Nat} {j : Job} (h : j.Laws due) (hc : j.decoder.context = none) :
    (j.produce [.abandon]).Laws due := by
  have hkeeps : j.Keeps (j.mapDecoder (fun d => { d with waitingOutput := d.waitingOutput ++ [.abandon] })) :=
    .stream rfl rfl rfl rfl rfl Iff.rfl fun _ ⟨⟨hctx, hrec, hout⟩, hq⟩ => ⟨⟨hctx, hrec, fun i hi => by
      rcases List.mem_append.mp hi with hi | hi
      · exact hout i hi
      · rw [List.mem_singleton.mp hi]
        trivial⟩, hq⟩
  have hjoined : Job.Laws due (j.mapDecoder (fun d => { d with waitingOutput := d.waitingOutput ++ [.abandon] })) := by
    refine h.withDecoder (hkeeps.starts.target h.target) id rfl
      ⟨?_, fun _ c hc' => (by cases hc.symm.trans hc'), h.stream.running, h.stream.fault⟩
    show itemsFollow due (j.queue ++ (j.decoder.waitingOutput ++ [.abandon]))
    rw [← List.append_assoc, itemsFollow_append]
    exact ⟨h.stream.follow, trivial, trivial⟩
  exact DecodesAll.laws (.single .flushed) hjoined

theorem Job.Laws.dropped {due : Option Nat} {j : Job} (h : j.Laws due) : j.dropped.Laws due := by
  have hkeeps : j.Keeps j.dropped :=
    .stream rfl rfl rfl rfl rfl Iff.rfl fun _ ⟨⟨_, _, hout⟩, hq⟩ => ⟨⟨fun c hc => (by cases hc), trivial, hout⟩, hq⟩
  exact h.withDecoder (hkeeps.starts.target h.target) id rfl ⟨h.stream.follow, fun _ c hc => (nomatch hc), h.stream.running, h.stream.fault⟩

theorem Job.Laws.discontinuity {due : Option Nat} {j : Job} (h : j.Laws due) : j.discontinuity.Laws due := by
  obtain ⟨hmarked, hunmarked⟩ := j.discontinuity_spec
  cases hm : j.decoder.faultMark with
  | true =>
    rw [hmarked hm]
    exact h
  | false =>
    obtain ⟨hclosed, hopen⟩ := hunmarked hm
    cases ho : j.decoder.sectionOpen with
    | false =>
      rw [hclosed ho]
      exact h.dropped
    | true =>
      rw [hopen ho]
      refine (h.dropped.count _ _).produceAbandon ?_
      obtain ⟨counters, he⟩ := Job.count_eq .sectionsAbandoned 1 j.dropped
      rw [he]
      rfl

theorem Job.Laws.expireGap {due : Option Nat} {j : Job} (h : j.Laws due) : j.expireGap.job.Laws due := by
  unfold Job.expireGap
  split
  · exact ((h.withWindow _).count _ _).discontinuity
  · exact h

end Sys2Proof.Machine
end

section
/-! JC's moves between the job states in the laws of the repair list, and the requests PARCEL, RUN, PAUSE and RECOVER (R10, R13, R14, R93,
R144, R146). -/

namespace Sys2Proof.Machine

section

variable {due : Option Nat} {j : Job} (h : j.Laws due)
include h

/-- A change of RU's state that its part of the laws does not see. -/
theorem Job.Laws.sameUnit {u : ReconUnit} (ht : Job.InTarget { j with unit := u }) (ha : u.activity = j.unit.activity)
    (hi : u.item = j.unit.item) (hb : u.block = j.unit.block) (hf : u.fill = j.unit.fill) (ho : u.order = .stop → j.unit.order = .stop) :
    Job.Laws due { j with unit := u } where
  target := ht
  lists := h.lists
  list := h.list
  scan := h.scan
  item := by
    have hfits := h.item
    unfold ReconUnit.itemFits at hfits ⊢
    rw [show ({ j with unit := u } : Job).unit.item = j.unit.item from hi]
    exact hfits
  block := fun k hk => by
    have hfits := h.block k (hb ▸ hk)
    rw [← ha, ← hi] at hfits
    exact hfits
  stream := ⟨h.stream.follow, h.stream.place, h.stream.running, h.stream.fault⟩
  stops := ⟨h.stops.decoder, h.stops.unit, fun hs => h.stops.order (ho hs)⟩
  activity := by
    refine ⟨fun hp => ha.trans (h.activity.still hp), fun hp => ?_, fun hp hact => ?_, fun hact => ?_, fun f hfill => ?_⟩
    · show u.activity = _ ∨ u.activity = _
      rw [ha]
      exact h.activity.faulted hp
    · exact hi.trans (h.activity.itemless hp (ha ▸ hact))
    · show ∀ c, u.item = some c → _
      rw [hi]
      exact h.activity.waits (ha ▸ hact)
    · exact h.activity.fill f (hf ▸ hfill)
  checks := ⟨h.checks.tasks, h.checks.close⟩
  scanning := fun hs => by
    obtain ⟨h1, h2, h3⟩ := h.scanning hs
    exact ⟨hb.trans h1, h2, h3.imp (fun ⟨hp, hact⟩ => ⟨hp, ha.trans hact⟩) id⟩

theorem Job.Laws.withMonitor (monitor : Monitor) : Job.Laws due { j with unit := { j.unit with monitor := monitor } } :=
  h.sameUnit ((Job.keeps_unit (u := { j.unit with monitor := monitor }) rfl (Or.inl rfl) (Or.inl rfl) (Or.inl rfl) rfl).starts.target h.target)
    rfl rfl rfl rfl id

/-- A change of VE's own state that holds no other task and no other close. -/
theorem Job.Laws.withVerifier {v : Verifier} (ht : ∀ t ∈ v.tasks, t ∈ j.verifier.tasks)
    (hc : ∀ c, v.close = some c → j.verifier.close = some c) : Job.Laws due { j with verifier := v } where
  target := (Job.keeps_mapVerifier (fun _ => v) j).starts.target h.target
  lists := h.lists
  list := h.list
  scan := h.scan
  item := h.item
  block := h.block
  stream := ⟨h.stream.follow, h.stream.place, h.stream.running, h.stream.fault⟩
  stops := ⟨h.stops.decoder, h.stops.unit, h.stops.order⟩
  activity := ⟨h.activity.still, h.activity.faulted, h.activity.itemless, h.activity.waits, h.activity.fill⟩
  checks := ⟨fun t hmem => h.checks.tasks t (ht t hmem), fun c hclose => h.checks.close c (hc c hclose)⟩
  scanning := fun hs => by
    obtain ⟨h1, h2, h3⟩ := h.scanning hs
    exact ⟨h1, Option.eq_none_iff_forall_ne_some.mpr (fun c hclose => by cases h2.symm.trans (hc c hclose)), h3⟩

/-- A move to another job state outside ABORTING. -/
theorem Job.Laws.movesTo {phase : JobPhase} (hp : j.phase ≠ .aborting) (hp' : phase ≠ .aborting)
    (hrun : j.decoder.running = true → phase = .running ∨ phase = .stopping ∨ phase = .quiescing)
    (hmark : j.decoder.faultMark = true → phase = .quiescing ∨ phase = .faulted)
    (hstill : phase = .ready ∨ phase = .closing ∨ phase = .closed → j.unit.activity = .idle)
    (hfaulted : phase = .faulted → j.unit.activity = .idle ∨ j.unit.activity = .halted)
    (hclose : j.verifier.close = none) (hscan : j.tracker.scan = none) : Job.Laws due { j with phase := phase } where
  target := (Job.keeps_phase hp hp').starts.target h.target
  lists := h.lists
  list := h.list
  scan := h.scan
  item := h.item
  block := h.block
  stream := by
    refine ⟨h.stream.follow, fun hlive => h.stream.place (hlive.imp id (fun ⟨hm, _⟩ => ⟨hm, hp⟩)), fun hr => ?_, fun hm => ?_⟩
    · exact (hrun hr).imp id (Or.imp id Or.inl)
    · exact ⟨(h.stream.fault hm).1, (hmark hm).imp id Or.inl⟩
  stops := ⟨fun hd => absurd (h.stops.decoder hd) hp, fun hu => absurd (h.stops.unit hu) hp, fun ho => absurd (h.stops.order ho) hp⟩
  activity := ⟨hstill, hfaulted, fun _ => h.activity.itemless hp, h.activity.waits, h.activity.fill⟩
  checks := ⟨h.checks.tasks, fun c hc => (by cases hclose.symm.trans hc)⟩
  scanning := fun hs => by
    have hs : j.tracker.scan.isSome = true := hs
    rw [hscan] at hs
    cases hs

end

section

variable {due : Option Nat} {j : Job} (h : j.LawsBut due)
include h

/-- Outside SERVICING and ABORTING no scan stands. -/
theorem Job.LawsBut.scan_none (h1 : j.phase ≠ .servicing) (h2 : j.phase ≠ .aborting) : j.tracker.scan = none := by
  cases hs : j.tracker.scan with
  | none => rfl
  | some sc =>
    obtain ⟨_, _, ⟨hp, _⟩ | hp⟩ := h.scanning (by rw [hs]; rfl)
    · exact absurd hp h1
    · exact absurd hp h2

/-- Outside CLOSING and ABORTING no close is in progress. -/
theorem Job.LawsBut.close_none (h1 : j.phase ≠ .closing) (h2 : j.phase ≠ .aborting) : j.verifier.close = none := by
  cases hc : j.verifier.close with
  | none => rfl
  | some c =>
    obtain ⟨_, _, hp | hp⟩ := h.checks.close c hc
    · exact absurd hp h1
    · exact absurd hp h2

/-- SD is stopped in the states in which it does not work. -/
theorem Job.LawsBut.running_false (h1 : j.phase ≠ .running) (h2 : j.phase ≠ .stopping) (h3 : j.phase ≠ .quiescing) (h4 : j.phase ≠ .aborting) :
    j.decoder.running = false := by
  cases hr : j.decoder.running with
  | false => rfl
  | true =>
    rcases h.stream.running hr with hp | hp | hp | hp
    · exact absurd hp h1
    · exact absurd hp h2
    · exact absurd hp h3
    · exact absurd hp h4

/-- SD holds a fault mark in QUIESCING, FAULTED and ABORTING only. -/
theorem Job.LawsBut.mark_false (h1 : j.phase ≠ .quiescing) (h2 : j.phase ≠ .faulted) (h3 : j.phase ≠ .aborting) : j.decoder.faultMark = false := by
  cases hm : j.decoder.faultMark with
  | false => rfl
  | true =>
    rcases (h.stream.fault hm).2 with hp | hp | hp
    · exact absurd hp h1
    · exact absurd hp h2
    · exact absurd hp h3

/-- An idle or halted RU has no block in hand. -/
theorem Job.LawsBut.block_none (ha : j.unit.activity = .idle ∨ j.unit.activity = .halted) : j.unit.block = none := by
  cases hb : j.unit.block with
  | none => rfl
  | some k =>
    have hfits := h.block k hb
    have hact : j.unit.activity = .fill ∨ j.unit.activity = .hole ∨ j.unit.activity = .build := by
      cases hw : k.work <;> simp only [hw] at hfits
      case hostFill => exact Or.inl hfits.1
      case holeFill => exact Or.inr (Or.inl hfits.1)
      all_goals exact Or.inr (Or.inr hfits.1)
    rcases ha with ha | ha <;> simp [ha] at hact

end

/-! ### The end of an event -/

theorem Work.laws_testDrain {due : Option Nat} {w : Work} (h : w.job.Laws due) : w.testDrain.job.Laws due := by
  by_cases hd : w.job.phase = .stopping ∧ w.job.drained = true
  · obtain ⟨hp, hdrained⟩ := hd
    obtain ⟨hr, _, hidle⟩ := Job.drained_iff.mp hdrained
    have hne (p : JobPhase) (hq : p ≠ .stopping) : w.job.phase ≠ p := fun hp' => hq (hp'.symm.trans hp)
    have hready : Job.Laws due { w.job with phase := .ready } :=
      h.movesTo (hne _ (by decide)) (by decide) (fun hr' => (by cases hr.symm.trans hr'))
        (fun hm => (by cases (h.mark_false (hne _ (by decide)) (hne _ (by decide)) (hne _ (by decide))).symm.trans hm)) (fun _ => hidle)
        (fun hp' => nomatch hp') (h.close_none (hne _ (by decide)) (hne _ (by decide))) (h.scan_none (hne _ (by decide)) (hne _ (by decide)))
    unfold Work.testDrain
    rw [if_pos ⟨hp, hdrained⟩]
    dsimp only
    split
    · exact hready
    · exact hready
  · rw [Work.testDrain_keeps hd]
    exact h

theorem Work.laws_testQuiesce {due : Option Nat} {o : Bool} {w : Work} (h : w.job.Laws due) : (w.testQuiesce o).job.Laws due := by
  by_cases hd : w.job.phase = .quiescing ∧ w.job.quiesced o = true
  · obtain ⟨hp, hquiesced⟩ := hd
    obtain ⟨hr, _, hquiet, _⟩ := Job.quiesced_iff.mp hquiesced
    have hne (p : JobPhase) (hq : p ≠ .quiescing) : w.job.phase ≠ p := fun hp' => hq (hp'.symm.trans hp)
    have hfaulted : Job.Laws due { w.job with phase := .faulted } :=
      h.movesTo (hne _ (by decide)) (by decide) (fun hr' => (by cases hr.symm.trans hr')) (fun _ => Or.inr rfl) (fun hp' => by simp at hp')
        (fun _ => hquiet) (h.close_none (hne _ (by decide)) (hne _ (by decide))) (h.scan_none (hne _ (by decide)) (hne _ (by decide)))
    unfold Work.testQuiesce
    rw [if_pos ⟨hp, hquiesced⟩]
    dsimp only
    split
    · exact hfaulted
    · exact hfaulted
  · rw [Work.testQuiesce_keeps hd]
    exact h

theorem Work.laws_settle {due : Option Nat} {o : Bool} {w : Work} (h : w.job.Laws due) : (w.settle o).job.Laws due := by
  have htested : (w.testDrain.testQuiesce o).job.Laws due := Work.laws_testQuiesce (Work.laws_testDrain h)
  show (w.testDrain.testQuiesce o).job.settleTimers.Laws due
  generalize (w.testDrain.testQuiesce o).job = j at htested ⊢
  obtain ⟨timer, monitor, he⟩ := j.settleTimers_spec
  rw [he]
  exact (htested.withWindow { j.window with gapTimer := timer }).withMonitor monitor

/-! ### Requests -/

theorem Job.Laws.run {due : Option Nat} {j : Job} (h : j.Laws due) (hp : j.phase = .ready) (limit : Limit) : (j.run limit).Laws due := by
  have hne (p : JobPhase) (hq : p ≠ .ready) : j.phase ≠ p := fun hp' => hq (hp'.symm.trans hp)
  have hmark : j.decoder.faultMark = false := h.mark_false (hne _ (by decide)) (hne _ (by decide)) (hne _ (by decide))
  have hrunning : Job.Laws due { j with phase := .running } :=
    h.movesTo (hne _ (by decide)) (by decide) (fun _ => Or.inl rfl) (fun hm => (by cases hmark.symm.trans hm)) (fun hp' => by simp at hp')
      (fun hp' => nomatch hp') (h.close_none (hne _ (by decide)) (hne _ (by decide))) (h.scan_none (hne _ (by decide)) (hne _ (by decide)))
  have hbegun : Job.Laws due ({ j with phase := .running }.mapDecoder (Decoder.begin limit)) :=
    hrunning.withDecoder (d := j.decoder.begin limit) hrunning.target id rfl
      ⟨h.stream.follow, fun _ => h.stream.place (Or.inr ⟨hmark, hne _ (by decide)⟩), fun _ => Or.inl rfl,
        fun hm => (by cases hmark.symm.trans hm)⟩
  have hmonitor : (({ j with phase := .running }.mapDecoder (Decoder.begin limit)).startMonitor).Laws due := by
    unfold Job.startMonitor
    split
    · exact hbegun
    · exact hbegun.withMonitor _
  exact hmonitor.wakeDecoder

theorem Job.Laws.pause {due : Option Nat} {j : Job} (h : j.Laws due) (hp : j.phase = .running) : j.pause.Laws due := by
  have hs : j.Slides j.pause := ⟨rfl, rfl, rfl, rfl, rfl, Or.inr ⟨by rw [hp]; rfl, Or.inl rfl⟩⟩
  have hstream := h.stream.slides hs.phase
  exact h.slides hs ((Job.keeps_pause hp).starts.target h.target) ⟨hstream.follow, hstream.place, hstream.running, hstream.fault⟩

theorem Job.Laws.takeParcel {due : Option Nat} {j : Job} (h : j.Laws due) (p : Parcel) : (j.takeParcel p).1.Laws due := by
  have hstored : Job.Laws due (if j.window.verdict p.sequence = .taken then { j with window := j.window.store p } else j) := by
    split
    · exact h.withWindow _
    · exact h
  unfold Job.takeParcel
  dsimp only
  generalize (if j.window.verdict p.sequence = .taken then { j with window := j.window.store p } else j) = stored at hstored ⊢
  split
  · exact (hstored.count _ _).withWindow _
  · exact hstored.withWindow _

/-- RECOVER: the path from SD to RU is empty again (R93, R146). -/
theorem Job.Laws.recover {due : Option Nat} {j : Job} (h : j.Laws due) (hp : j.phase = .faulted) : j.recover.Laws none where
  target := by
    have ht := h.target
    rw [Job.inTarget_iff] at ht ⊢
    obtain ⟨hfit, htr, _, _⟩ := ht
    exact ⟨hfit, htr, ⟨⟨fun c hc => (by cases hc), trivial, fun i hi => (by cases hi)⟩, fun i hi => (by cases hi)⟩,
      h.target.unit.mono (Or.inr rfl) (Or.inl rfl) (Or.inl rfl) (Or.inl rfl)⟩
  lists := h.lists
  list := h.list
  scan := h.scan
  item := fun q hq => nomatch hq
  block := fun k hk => by cases (h.block_none (h.activity.faulted hp)).symm.trans hk
  stream := ⟨trivial, fun _ c hc => (nomatch hc), fun hr => (nomatch hr), fun hm => (nomatch hm)⟩
  stops := ⟨fun hd => absurd (h.stops.decoder hd) (by rw [hp]; decide), fun hu => absurd (h.stops.unit hu) (by rw [hp]; decide),
    fun ho => nomatch ho⟩
  activity := ⟨fun _ => rfl, fun hp' => (nomatch hp'), fun _ _ => rfl, fun ha => (nomatch ha), h.activity.fill⟩
  checks := ⟨h.checks.tasks, fun c hc => by
    obtain ⟨_, _, h3⟩ := h.checks.close c hc
    rw [hp] at h3
    simp at h3⟩
  scanning := fun hs => by
    have hscan := h.scan_none (by rw [hp]; decide) (by rw [hp]; decide)
    rw [show j.recover.tracker.scan = none from hscan] at hs
    cases hs

end Sys2Proof.Machine
end

section
/-! CT's reports in the laws of the repair list (R24 to R35, R38 to R41). -/

namespace Sys2Proof.Machine

/-! ### The list and the map -/

/-- The repair list agrees with the map but for some blocks. -/
structure Tracker.ExactOutside (changed : Nat → Prop) (t : Tracker) : Prop where
  sound : ∀ k, ¬ changed k → Covers t.repairs k → k < t.frontier ∧ (t.state k).listable = true
  complete : t.overflow = false → ∀ k, ¬ changed k → k < t.frontier → (t.state k).listable = true → Covers t.repairs k
  empty : ∀ k, t.frontier ≤ k → t.state k = .empty

theorem Tracker.listExact_iff {t : Tracker} : t.ListExact ↔
    (∀ b, Covers t.repairs b → b < t.frontier ∧ (t.state b).listable = true) ∧
      (t.overflow = false → ∀ b, b < t.frontier → (t.state b).listable = true → Covers t.repairs b) ∧
      ∀ b, t.frontier ≤ b → t.state b = .empty :=
  ⟨fun ⟨hsound, hcomplete, hempty⟩ => ⟨fun b ⟨r, hr, hb⟩ => hsound r hr b hb, hcomplete, hempty⟩,
    fun ⟨hsound, hcomplete, hempty⟩ => ⟨fun r hr b hb => hsound b ⟨r, hr, hb⟩, hcomplete, hempty⟩⟩

theorem Tracker.ExactOutside.congr {t : Tracker} {changed changed' : Nat → Prop} (h : t.ExactOutside changed)
    (he : ∀ k, changed' k ↔ changed k) : t.ExactOutside changed' := by
  rwa [show changed' = changed from funext fun k => propext (he k)]

/-- A change of some states below F, and of F, before the repair list takes it. -/
theorem Tracker.ListExact.outside {t t' : Tracker} {changed : Nat → Prop} (h : t.ListExact) (hr : t'.repairs = t.repairs)
    (ho : t'.overflow = t.overflow) (hf : t.frontier ≤ t'.frontier) (hbelow : ∀ k, changed k → k < t'.frontier)
    (hrest : ∀ k, ¬ changed k → t'.state k = t.state k ∧ (k < t'.frontier → k < t.frontier)) : t'.ExactOutside changed := by
  obtain ⟨hsound, hcomplete, hempty⟩ := Tracker.listExact_iff.mp h
  refine ⟨fun k hk hc => ?_, fun hclear k hk hlt hl => ?_, fun k hk => ?_⟩
  · obtain ⟨hlt, hl⟩ := hsound k (hr ▸ hc)
    exact ⟨Nat.lt_of_lt_of_le hlt hf, by rw [(hrest k hk).1]; exact hl⟩
  · rw [hr]
    exact hcomplete (ho ▸ hclear) k ((hrest k hk).2 hlt) (by rw [← (hrest k hk).1]; exact hl)
  · have hunchanged : ¬ changed k := fun hc => absurd (hbelow k hc) (Nat.not_lt.mpr hk)
    rw [(hrest k hunchanged).1]
    exact hempty k (Nat.le_trans hf hk)

/-- The changed blocks are listed already and belong on the list. -/
theorem Tracker.ExactOutside.listed {t : Tracker} {changed : Nat → Prop} (h : t.ExactOutside changed)
    (hlist : ∀ k, changed k → k < t.frontier ∧ (t.state k).listable = true ∧ Covers t.repairs k) : t.ListExact := by
  rw [Tracker.listExact_iff]
  refine ⟨fun k hc => ?_, fun ho k hlt hl => ?_, h.empty⟩
  · by_cases hk : changed k
    · exact ⟨(hlist k hk).1, (hlist k hk).2.1⟩
    · exact h.sound k hk hc
  · by_cases hk : changed k
    · exact (hlist k hk).2.2
    · exact h.complete ho k hk hlt hl

/-- The changed blocks are a range that is added. -/
theorem Tracker.ExactOutside.addRange {t : Tracker} {r : BlockRange} (h : t.ExactOutside (fun k => r.holds k = true))
    (hrange : ∀ k, r.holds k = true → k < t.frontier ∧ (t.state k).listable = true) : (t.addRange r).tracker.ListExact := by
  obtain ⟨hsound, hcomplete, hempty⟩ := h
  have hlisted : ∀ k, Covers t.repairs k → k < t.frontier ∧ (t.state k).listable = true := fun k hc => by
    by_cases hk : r.holds k = true
    · exact hrange k hk
    · exact hsound k hk hc
  rw [Tracker.listExact_iff]
  by_cases hr : r.count = 0
  · have hnone : ∀ k, r.holds k ≠ true := fun k hk => by
      rw [BlockRange.holds_iff, BlockRange.stop] at hk
      omega
    have he : t.addRange r = ⟨t, none⟩ := if_pos hr
    rw [he]
    exact ⟨hlisted, fun ho k hlt hl => hcomplete ho k (hnone k) hlt hl, hempty⟩
  · rcases t.addRange_cases r (by omega) with ⟨_, he⟩ | ⟨_, _, he⟩ <;> rw [he]
    · refine ⟨fun k hc => ((mergeRange_covers r t.repairs k).mp hc).elim (hlisted k) (hrange k), fun ho k hlt hl => ?_, hempty⟩
      refine (mergeRange_covers r t.repairs k).mpr ?_
      by_cases hk : r.holds k = true
      · exact Or.inr hk
      · exact Or.inl (hcomplete ho k hk hlt hl)
    · exact ⟨hlisted, fun ho => (nomatch ho), hempty⟩

/-- A removal that leaves the overflow flag clear takes no other block off the list. -/
theorem Tracker.removeBlock_keeps {b : Nat} {t : Tracker} (h : (t.removeBlock b).tracker.overflow = false) :
    t.overflow = false ∧ ∀ k, k ≠ b → Covers t.repairs k → Covers (t.removeBlock b).tracker.repairs k := by
  rcases t.removeBlock_cases b with ⟨_, he⟩ | ⟨pre, r, post, hs, hr, _, he⟩ | ⟨_, _, _, _, _, _, _, _, he⟩ <;> rw [he] at h ⊢
  · exact ⟨h, fun k _ hk => hk⟩
  · obtain ⟨_, _, hcov, _, _⟩ := BlockRange.without_spec hr
    refine ⟨h, fun k hne hk => covers_replace.mpr ?_⟩
    rw [hs] at hk
    have hk : Covers pre k ∨ r.holds k = true ∨ Covers post k := by simpa [Covers, or_and_right, exists_or] using hk
    exact hk.imp id (Or.imp (fun hk => (hcov k).mpr ⟨hk, hne⟩) id)
  · cases h

theorem Tracker.removeBlocks_keeps (bs : List Nat) : ∀ {t : Tracker}, (t.removeBlocks bs).tracker.overflow = false →
    t.overflow = false ∧ ∀ k, k ∉ bs → Covers t.repairs k → Covers (t.removeBlocks bs).tracker.repairs k := by
  induction bs with
  | nil => exact fun h => ⟨h, fun _ _ hk => hk⟩
  | cons b rest ih =>
    intro t h
    rw [Tracker.removeBlocks_cons] at h ⊢
    obtain ⟨hone, hrest⟩ := ih h
    obtain ⟨ho, hstep⟩ := Tracker.removeBlock_keeps hone
    refine ⟨ho, fun k hk hcov => hrest k (fun hmem => hk (List.mem_cons_of_mem _ hmem)) (hstep k (fun he => hk ?_) hcov)⟩
    rw [he]
    exact List.mem_cons_self ..

/-- The changed blocks leave the list, and no longer belong on it. -/
theorem Tracker.ExactOutside.removeBlocks {t : Tracker} {bs : List Nat} (h : t.ExactOutside (fun k => k ∈ bs))
    (horder : RangesInOrder t.repairs) (hoff : ∀ k ∈ bs, (t.state k).listable = false) : (t.removeBlocks bs).tracker.ListExact := by
  obtain ⟨hsound, hcomplete, hempty⟩ := h
  have hlist := t.removeBlocks_listOnly bs
  have hstate := hlist.state
  obtain ⟨_, hfrontier, _⟩ := hlist.fields
  rw [Tracker.listExact_iff]
  simp only [hstate, hfrontier]
  refine ⟨fun k hk => ?_, fun ho k hlt hl => ?_, hempty⟩
  · obtain ⟨hout, hcov⟩ := Tracker.removeBlocks_covers bs horder hk
    exact hsound k hout hcov
  · have hout : k ∉ bs := fun hmem => by
      rw [hoff k hmem] at hl
      cases hl
    obtain ⟨hclear, hkeeps⟩ := Tracker.removeBlocks_keeps bs ho
    exact hkeeps k hout (hcomplete hclear k hout hlt hl)

/-! ### The reports -/

theorem covers_iff_any {rs : List BlockRange} {b : Nat} : Covers rs b ↔ rs.any (fun r => r.holds b) = true := by
  simp [Covers]

/-- The single block as a range. -/
theorem BlockRange.holds_single {b k : Nat} : BlockRange.holds ⟨b, 1⟩ k = true ↔ k = b := by
  rw [BlockRange.holds_iff]
  show b ≤ k ∧ k < b + 1 ↔ _
  omega

/-- One block's state set, at F or below, before the repair list takes it. -/
theorem Tracker.ListExact.written {t : Tracker} {b : Nat} (h : t.ListExact) (hb : b < t.map.length) (hf : b ≤ t.frontier) (c : Coverage) :
    (t.written b c).ExactOutside (fun k => k = b) := by
  refine h.outside rfl rfl (Nat.le_max_left ..) (fun k hk => ?_) (fun k hk => ⟨?_, fun hlt => ?_⟩)
  · rw [hk]
    exact Nat.lt_of_lt_of_le (Nat.lt_succ_self b) (Nat.le_max_right ..)
  · rw [Tracker.state_written hb, if_neg hk]
  · have hlt : k < max t.frontier (b + 1) := hlt
    omega

/-- The block set leaves the list. -/
theorem Tracker.ListExact.writtenOff {t : Tracker} {b : Nat} (h : t.ListExact) (horder : RangesInOrder t.repairs) (hb : b < t.map.length)
    (hf : b ≤ t.frontier) {c : Coverage} (hc : c.listable = false) : ((t.written b c).removeBlock b).tracker.ListExact := by
  refine Tracker.ExactOutside.removeBlocks (t := t.written b c) (bs := [b]) ?_ horder (fun k hk => ?_)
  · exact (h.written hb hf c).congr fun k => List.mem_singleton
  · rw [Tracker.state_written hb, if_pos (List.mem_singleton.mp hk)]
    exact hc

/-- The block set joins the list. -/
theorem Tracker.ListExact.writtenOn {t : Tracker} {b : Nat} (h : t.ListExact) (hb : b < t.map.length) (hf : b ≤ t.frontier) {c : Coverage}
    (hc : c.listable = true) : ((t.written b c).addRange ⟨b, 1⟩).tracker.ListExact := by
  refine Tracker.ExactOutside.addRange ((h.written hb hf c).congr fun k => BlockRange.holds_single) (fun k hk => ?_)
  · obtain rfl := BlockRange.holds_single.mp hk
    refine ⟨Nat.lt_of_lt_of_le (Nat.lt_succ_self k) (Nat.le_max_right ..), ?_⟩
    rw [Tracker.state_written hb, if_pos rfl]
    exact hc

/-- The block set joins the list unless it is there. -/
theorem Tracker.ListExact.writtenHeld {t : Tracker} {b : Nat} (h : t.ListExact) (hb : b < t.map.length) (hf : b ≤ t.frontier) {c : Coverage}
    (hc : c.listable = true) :
    (if t.repairs.any (fun r => r.holds b) then ⟨t.written b c, none⟩ else (t.written b c).addRange ⟨b, 1⟩ : Account).tracker.ListExact := by
  split
  · next hany =>
    refine (h.written hb hf c).listed (fun k hk => ⟨?_, ?_, ?_⟩)
    · rw [hk]
      exact Nat.lt_of_lt_of_le (Nat.lt_succ_self b) (Nat.le_max_right ..)
    · rw [Tracker.state_written hb, if_pos hk]
      exact hc
    · rw [hk]
      exact covers_iff_any.mpr hany
  · exact h.writtenOn hb hf hc

/-- A write report at F or below keeps the list exact (R26). -/
theorem Tracker.ListExact.writeReport {t : Tracker} {b : Nat} (h : t.ListExact) (horder : RangesInOrder t.repairs) (hb : b < t.map.length)
    (hf : b ≤ t.frontier) (tainted : Bool) : (t.writeReport b tainted).tracker.ListExact := by
  rw [Tracker.writeReport_eq]
  cases tainted with
  | false => exact h.writtenOff horder hb hf rfl
  | true => exact h.writtenHeld hb hf rfl

/-- Setting the state of a block below F leaves F. -/
theorem Tracker.setState_eq_written {t : Tracker} {b : Nat} (hf : b < t.frontier) (c : Coverage) : t.setState b c = t.written b c := by
  unfold Tracker.setState Tracker.written
  rw [Nat.max_eq_left hf]

/-- A fill report below F keeps the list exact (R27). -/
theorem Tracker.ListExact.fillReport {t : Tracker} {b : Nat} (h : t.ListExact) (horder : RangesInOrder t.repairs) (hb : b < t.map.length)
    (hf : b < t.frontier) (final : Bool) : (t.fillReport b final).tracker.ListExact := by
  unfold Tracker.fillReport
  cases final with
  | false =>
    simp only [Tracker.setState_eq_written hf]
    exact h.writtenHeld hb (Nat.le_of_lt hf) rfl
  | true =>
    simp only [Tracker.setState_eq_written hf]
    exact h.writtenOff horder hb (Nat.le_of_lt hf) rfl

/-- A check failure of a close keeps the list exact (R29). -/
theorem Tracker.ListExact.closeCheck {t : Tracker} {b : Nat} (h : t.ListExact) (hb : b < t.map.length) (hf : b < t.frontier) :
    (t.closeCheck b).tracker.ListExact := by
  unfold Tracker.closeCheck
  rw [Tracker.setState_eq_written hf]
  exact h.writtenOn hb (Nat.le_of_lt hf) rfl

/-- A hole request keeps the list exact (R25). -/
theorem Tracker.ListExact.holeRequest {t : Tracker} (h : t.ListExact) (start : Nat) : (t.holeRequest start).1.tracker.ListExact := by
  unfold Tracker.holeRequest
  split
  · next hlt =>
    have hraise : { (t.addRange ⟨t.frontier, start - t.frontier⟩).tracker with frontier := start } =
        (Tracker.addRange ⟨t.frontier, start - t.frontier⟩ { t with frontier := start }).tracker := by
      unfold Tracker.addRange Tracker.setOverflow
      split
      · rfl
      · split
        · rfl
        · dsimp only
          split <;> rfl
    have hholds (k : Nat) : BlockRange.holds ⟨t.frontier, start - t.frontier⟩ k = true ↔ t.frontier ≤ k ∧ k < start := by
      rw [BlockRange.holds_iff]
      show _ ∧ k < t.frontier + (start - t.frontier) ↔ _
      rw [Nat.add_sub_cancel' (Nat.le_of_lt hlt)]
    show Tracker.ListExact { (t.addRange ⟨t.frontier, start - t.frontier⟩).tracker with frontier := start }
    rw [hraise]
    refine Tracker.ExactOutside.addRange ?_ (fun k hk => ?_)
    · refine h.outside rfl rfl (Nat.le_of_lt hlt) (fun k hk => ((hholds k).mp hk).2) (fun k hk => ⟨rfl, fun hlt' => ?_⟩)
      rw [hholds] at hk
      have hlt' : k < start := hlt'
      omega
    · obtain ⟨h1, h2⟩ := (hholds k).mp hk
      refine ⟨h2, ?_⟩
      rw [show Tracker.state { t with frontier := start } k = .empty from h.2.2 k h1]
      rfl
  · exact h

/-- The states of a range set, below F, before the repair list takes it. -/
theorem Tracker.ListExact.mapRange {t : Tracker} (h : t.ListExact) {r : BlockRange} (hr : r.stop ≤ t.frontier)
    (f : Coverage → Coverage) {changed : Nat → Prop} (hin : ∀ k, changed k → r.holds k = true)
    (hf : ∀ k, r.holds k = true → ¬ changed k → f (t.state k) = t.state k) : (t.mapRange r f).ExactOutside changed := by
  refine h.outside rfl rfl (Nat.le_refl _) (fun k hk => ?_) (fun k hk => ⟨?_, id⟩)
  · exact Nat.lt_of_lt_of_le (BlockRange.holds_iff.mp (hin k hk)).2 hr
  · by_cases hlt : k < t.map.length
    · rw [Tracker.state_mapRange _ _ _ hlt]
      split
      · next hh => exact hf k hh hk
      · rfl
    · have hlen : (t.mapRange r f).map.length = t.map.length := mapStates_length _ _ _
      unfold Tracker.state
      rw [List.getD_eq_default _ _ (by omega), List.getD_eq_default _ _ (by omega)]

/-- The test of a walk keeps the list exact. -/
theorem Tracker.ListExact.restartScan {t : Tracker} (h : t.ListExact) (before : List Coverage) : (t.restartScan before).ListExact := by
  obtain ⟨hmap, hfrontier, hrepairs, hoverflow⟩ := t.restartScan_fields before
  unfold Tracker.ListExact Tracker.state
  rw [hmap, hfrontier, hrepairs, hoverflow]
  exact h

/-- A section result below F keeps the list exact (R28, R35). -/
theorem Tracker.ListExact.sectionResult {t : Tracker} (h : t.ListExact) (horder : RangesInOrder t.repairs) {start count : Nat}
    (hr : start + count ≤ t.frontier) (hn : t.frontier ≤ t.map.length) (outcome : TaskOutcome) :
    (t.sectionResult start count outcome).tracker.ListExact := by
  have hstate (c : Coverage) (k : Nat) (hk : BlockRange.holds ⟨start, count⟩ k = true) :
      k < t.frontier ∧ (t.mapRange ⟨start, count⟩ (fun _ => c)).state k = c := by
    have hlt : k < t.frontier := Nat.lt_of_lt_of_le (BlockRange.holds_iff.mp hk).2 hr
    exact ⟨hlt, by rw [Tracker.state_mapRange _ _ _ (by omega), if_pos hk]⟩
  have hon : ((t.mapRange ⟨start, count⟩ (fun _ => .suspect)).addRange ⟨start, count⟩).tracker.ListExact := by
    refine (h.mapRange (r := ⟨start, count⟩) hr _ (fun _ hk => hk) (fun k hk hno => absurd hk hno)).addRange (fun k hk => ?_)
    obtain ⟨hlt, hs⟩ := hstate .suspect k hk
    exact ⟨hlt, by rw [hs]; rfl⟩
  unfold Tracker.sectionResult
  cases outcome with
  | isMatch =>
    refine Tracker.ListExact.restartScan (Tracker.ExactOutside.removeBlocks (t := t.mapRange ⟨start, count⟩ (fun _ => .verified))
      (bs := BlockRange.blocks ⟨start, count⟩) ?_ horder (fun k hk => ?_)) t.map
    · exact h.mapRange (r := ⟨start, count⟩) hr _ (fun k hk => BlockRange.mem_blocks.mp hk)
        (fun k hk hno => absurd (BlockRange.mem_blocks.mpr hk) hno)
    · rw [(hstate .verified k (BlockRange.mem_blocks.mp hk)).2]
      rfl
  | mismatch => exact hon.restartScan t.map
  | check b => exact hon.restartScan t.map

/-- A matching close of a full map keeps the list exact (R29, R35). -/
theorem Tracker.ListExact.closeMatch {t : Tracker} (h : t.ListExact) (horder : RangesInOrder t.repairs)
    (hn : t.frontier = t.map.length) : t.closeMatch.tracker.ListExact := by
  unfold Tracker.closeMatch
  refine Tracker.ExactOutside.removeBlocks ?_ horder (fun k hk => ?_)
  · refine h.outside rfl rfl (Nat.le_refl _) (fun k hk => ?_) (fun k hk => ⟨?_, id⟩)
    · exact hn ▸ List.mem_range.mp hk
    · rw [List.mem_range] at hk
      unfold Tracker.state
      rw [List.getD_eq_default _ _ (by simpa using hk), List.getD_eq_default _ _ (by omega)]
  · rw [List.mem_range] at hk
    unfold Tracker.state
    rw [List.getD_eq_getElem _ _ (by simpa using hk), List.getElem_map]
    rfl

/-- WAIVE below F keeps the list exact (R38). -/
theorem Tracker.ListExact.waive {t : Tracker} (h : t.ListExact) (horder : RangesInOrder t.repairs) {r : BlockRange}
    (hr : r.stop ≤ t.frontier) (hn : t.frontier ≤ t.map.length) : (t.waive r).tracker.ListExact := by
  have hmem (k : Nat) : k ∈ t.waivable r ↔ r.holds k = true ∧ (t.state k = .carried ∨ t.state k = .suspect) := by
    rw [Tracker.waivable_eq, List.mem_filter, BlockRange.mem_blocks]
    simp
  unfold Tracker.waive
  refine Tracker.ExactOutside.removeBlocks ?_ horder (fun k hk => ?_)
  · refine h.mapRange hr _ (fun k hk => ((hmem k).mp hk).1) (fun k hk hno => ?_)
    rw [Coverage.waive_eq, if_neg fun hs => hno ((hmem k).mpr ⟨hk, hs⟩)]
  · obtain ⟨hh, hs⟩ := (hmem k).mp hk
    have hlt : k < t.frontier := Nat.lt_of_lt_of_le (BlockRange.holds_iff.mp hh).2 hr
    rw [Tracker.state_mapRange _ _ _ (by omega), if_pos hh, Coverage.waive_eq, if_pos hs]
    rfl

/-! ### The walk -/

theorem Tracker.ScanExact.of_none {t : Tracker} (h : t.scan = none) : t.ScanExact := fun sc hsc => by cases h.symm.trans hsc

/-- The walk's list stays exact while the states below its position stay and F does not fall. -/
theorem Tracker.ScanExact.same {t t' : Tracker} (h : t.ScanExact) (hs : t'.scan = t.scan) (hf : t.frontier ≤ t'.frontier)
    (hstate : ∀ k, t'.state k = t.state k) : t'.ScanExact := by
  intro sc hsc
  obtain ⟨hpos, hexact⟩ := h sc (hs ▸ hsc)
  exact ⟨Nat.le_trans hpos hf, fun b hb => by rw [hstate]; exact hexact b hb⟩

theorem Tracker.scanExact_startScan (t : Tracker) : t.startScan.ScanExact := by
  intro sc hsc
  cases hsc
  exact ⟨Nat.zero_le _, fun b hb => absurd hb (Nat.not_lt_zero b)⟩

/-- A section result keeps the walk's list exact (R40). -/
theorem Tracker.ScanExact.sectionResult {t : Tracker} (h : t.ScanExact) (start count : Nat) (outcome : TaskOutcome) :
    (t.sectionResult start count outcome).tracker.ScanExact := by
  obtain ⟨a, hlist, he⟩ := t.sectionResult_listOnly start count outcome
  obtain ⟨hmap, hfrontier, hscan⟩ := hlist.fields
  have hlength : t.map.length = a.tracker.map.length := by rw [hmap]; exact (mapStates_length _ _ _).symm
  obtain ⟨hnone, hsome⟩ := Tracker.restartScan_scan (t := a.tracker) hlength
  obtain ⟨hmap', hfrontier', _, _⟩ := a.tracker.restartScan_fields t.map
  rw [he]
  intro sc hsc
  have hsc : (a.tracker.restartScan t.map).scan = some sc := hsc
  cases hs : t.scan with
  | none => cases (hnone (hscan.trans hs)).symm.trans hsc
  | some old =>
    obtain ⟨hpos, hexact⟩ := h old hs
    obtain ⟨hrestart, hstays⟩ := hsome old (hscan.trans hs)
    by_cases hsame : ∀ k, k < old.position → a.tracker.state k = t.map.getD k .empty
    · cases (hstays hsame).symm.trans hsc
      refine ⟨?_, fun b hb => ?_⟩
      · rw [show (Account.tracker { a with tracker := a.tracker.restartScan t.map }).frontier = t.frontier from hfrontier'.trans hfrontier]
        exact hpos
      · have hstate : (a.tracker.restartScan t.map).state b = t.state b := by
          rw [Tracker.state, hmap']
          exact hsame b hb
        rw [show (Account.tracker { a with tracker := a.tracker.restartScan t.map }).state b = t.state b from hstate]
        exact hexact b hb
    · simp only [not_forall] at hsame
      obtain ⟨k, hk, hne⟩ := hsame
      cases (hrestart ⟨k, hk, hne⟩).symm.trans hsc
      exact ⟨Nat.zero_le _, fun b hb => absurd hb (Nat.not_lt_zero b)⟩

/-- A scan list that holds exactly the blocks below its position that belong on the repair list, at F or below. -/
def Scan.ExactIn (t : Tracker) (sc : Scan) : Prop :=
  sc.position ≤ t.frontier ∧ ∀ b, b < sc.position → ((t.state b).listable = true ↔ Covers sc.ranges b)

/-- A visit keeps the walk's list exact (R39). -/
theorem Scan.ExactIn.visit {t : Tracker} {sc : Scan} (h : sc.ExactIn t) (ho : sc.InOrder) (hp : sc.position < t.frontier) :
    (sc.visit (t.state sc.position)).ExactIn t := by
  obtain ⟨hpos, hexact⟩ := h
  have hnot : ¬ Covers sc.ranges sc.position := by
    rintro ⟨r, hr, hb⟩
    exact absurd (BlockRange.holds_iff.mp hb).2 (Nat.not_lt.mpr (ho.2 r hr))
  have hnext {ranges : List BlockRange} (hsame : ∀ b, b < sc.position → (Covers ranges b ↔ Covers sc.ranges b))
      (hown : Covers ranges sc.position ↔ (t.state sc.position).listable = true) :
      Scan.ExactIn t { sc with position := sc.position + 1, ranges := ranges } := by
    refine ⟨hp, fun b hb => ?_⟩
    rcases Nat.lt_succ_iff_lt_or_eq.mp hb with hlt | rfl
    · exact (hexact b hlt).trans (hsame b hlt).symm
    · exact hown.symm
  rcases sc.visit_cases (t.state sc.position) with ⟨hl, he⟩ | ⟨hl, init, r, hi, hr, he⟩ | ⟨hl, hc, hlen, he⟩ | ⟨hl, he⟩ <;> rw [he]
  · exact hnext (fun _ _ => Iff.rfl) (by simp [hnot, hl])
  · have hlong (b : Nat) : BlockRange.holds ⟨r.first, r.count + 1⟩ b = true ↔ r.holds b = true ∨ b = sc.position := by
      have hle := r.first_le_stop
      rw [BlockRange.holds_iff, BlockRange.holds_iff, show BlockRange.stop ⟨r.first, r.count + 1⟩ = sc.position + 1 from by rw [← hr]; rfl]
      show r.first ≤ b ∧ _ ↔ _
      omega
    have hcov (b : Nat) : Covers (init ++ [⟨r.first, r.count + 1⟩]) b ↔ Covers sc.ranges b ∨ b = sc.position := by
      rw [hi]
      simp only [Covers, List.mem_append, List.mem_singleton, or_and_right, exists_or, exists_eq_left, hlong, or_assoc]
    refine hnext (fun b hb => ?_) ?_
    · rw [hcov]
      exact or_iff_left (Nat.ne_of_lt hb)
    · rw [hcov]
      simp [hl]
  · have hcov (b : Nat) : Covers (sc.ranges ++ [⟨sc.position, 1⟩]) b ↔ Covers sc.ranges b ∨ b = sc.position := by
      simp only [Covers, List.mem_append, List.mem_singleton, or_and_right, exists_or, exists_eq_left, BlockRange.holds_single]
    refine hnext (fun b hb => ?_) ?_
    · rw [hcov]
      exact or_iff_left (Nat.ne_of_lt hb)
    · rw [hcov]
      simp [hl]
  · exact ⟨hpos, hexact⟩

/-- The visit of a step keeps the walk's list exact. -/
theorem Tracker.visited_exactIn {t : Tracker} {sc : Scan} (hl : t.ListsInOrder) (h : t.ScanExact) (hsc : t.scan = some sc) :
    (t.visited sc).ExactIn t := by
  unfold Tracker.visited
  split
  · next hp => exact Scan.ExactIn.visit (h sc hsc) (hl.2 sc hsc) hp
  · exact h sc hsc

/-- The end of a walk that has come to F, or that has found more than the list holds, gives an exact repair list (R41). -/
theorem Tracker.ListExact.completeScan {t : Tracker} {sc : Scan} (h : t.ListExact) (hsc : sc.ExactIn t) (ho : sc.InOrder)
    (hend : sc.foundMore = true ∨ t.frontier ≤ sc.position) : (t.completeScan sc).tracker.ListExact := by
  obtain ⟨hpos, hexact⟩ := hsc
  rw [Tracker.completeScan_eq, Tracker.listExact_iff]
  refine ⟨fun b hb => ?_, fun hclear b hlt hl => ?_, h.2.2⟩
  · obtain ⟨r, hr, hrb⟩ := hb
    have hlt : b < sc.position := Nat.lt_of_lt_of_le (BlockRange.holds_iff.mp hrb).2 (ho.2 r hr)
    exact ⟨Nat.lt_of_lt_of_le hlt hpos, (hexact b hlt).mpr ⟨r, hr, hrb⟩⟩
  · have hclear : sc.foundMore = false := hclear
    have hall : t.frontier ≤ sc.position := hend.resolve_left (by rw [hclear]; decide)
    exact (hexact b (Nat.lt_of_lt_of_le hlt hall)).mp hl

end Sys2Proof.Machine
end

section
/-! VE's events, WAIVE, REPAIR_SCAN, CLOSE_IMAGE and the walk in the laws of the repair list (R28, R29, R38 to R42, R125 to R137). -/

namespace Sys2Proof.Machine

/-! ### RU's item and F -/

section

variable {f : Nat} {due : Option Nat} {u : ReconUnit} {next stop : Nat}

theorem ReconUnit.itemFits_none (hi : u.item = none) : u.itemFits f due ↔ ∀ q, due = some q → q ≤ f := by
  unfold ReconUnit.itemFits
  rw [hi]

theorem ReconUnit.itemFits_block {i : BlockItem} (hi : u.item = some ⟨.block i, next, stop⟩) :
    u.itemFits f due ↔ stop = i.block + 1 ∧ next < stop ∧ next ≤ f ∧ due = some stop := by
  unfold ReconUnit.itemFits
  rw [hi]

/-- An item that RU fills a hole for. -/
def Item.IsHole (item : Item) : Prop := (∃ start, item = .sectionBegin start) ∨ ∃ digest, item = .imageEnd digest

theorem ReconUnit.itemFits_hole {item : Item} (hi : u.item = some ⟨item, next, stop⟩) (hh : item.IsHole) :
    u.itemFits f due ↔ next < stop ∧ stop ≤ f ∧ ∀ q, due = some q → q ≤ f := by
  unfold ReconUnit.itemFits
  rw [hi]
  rcases hh with ⟨start, rfl⟩ | ⟨digest, rfl⟩ <;> rfl

theorem ReconUnit.itemFits_sectionEnd {number : Word16} {start count : Nat} {digest : Option Word32}
    (hi : u.item = some ⟨.sectionEnd number start count digest, next, stop⟩) :
    u.itemFits f due ↔ start + count ≤ f ∧ ∀ q, due = some q → q ≤ f := by
  unfold ReconUnit.itemFits
  rw [hi]

/-- What RU can hold where its item agrees with F. -/
theorem ReconUnit.itemFits.cases (h : u.itemFits f due) : u.item = none ∨ (∃ i next stop, u.item = some ⟨.block i, next, stop⟩) ∨
    (∃ item next stop, u.item = some ⟨item, next, stop⟩ ∧ item.IsHole) ∨
      ∃ number start count digest next stop, u.item = some ⟨.sectionEnd number start count digest, next, stop⟩ := by
  unfold ReconUnit.itemFits at h
  cases hi : u.item with
  | none => exact Or.inl rfl
  | some c =>
    rw [hi] at h
    obtain ⟨item, next, stop⟩ := c
    cases item with
    | block i => exact Or.inr (Or.inl ⟨i, next, stop, rfl⟩)
    | sectionBegin start => exact Or.inr (Or.inr (Or.inl ⟨_, next, stop, rfl, Or.inl ⟨start, rfl⟩⟩))
    | imageEnd digest => exact Or.inr (Or.inr (Or.inl ⟨_, next, stop, rfl, Or.inr ⟨digest, rfl⟩⟩))
    | sectionEnd number start count digest => exact Or.inr (Or.inr (Or.inr ⟨number, start, count, digest, next, stop, rfl⟩))
    | abandon => exact h.elim

/-- RU's item agrees with F after F has risen. -/
theorem ReconUnit.itemFits.mono {f' : Nat} (h : u.itemFits f due) (hf : f ≤ f') : u.itemFits f' due := by
  have hdue (h : ∀ q, due = some q → q ≤ f) : ∀ q, due = some q → q ≤ f' := fun q hq => Nat.le_trans (h q hq) hf
  rcases h.cases with hi | ⟨i, next, stop, hi⟩ | ⟨item, next, stop, hi, hh⟩ | ⟨number, start, count, digest, next, stop, hi⟩
  · rw [ReconUnit.itemFits_none hi] at h ⊢
    exact hdue h
  · rw [ReconUnit.itemFits_block hi] at h ⊢
    obtain ⟨hstop, hlt, hnext, hq⟩ := h
    exact ⟨hstop, hlt, Nat.le_trans hnext hf, hq⟩
  · rw [ReconUnit.itemFits_hole hi hh] at h ⊢
    obtain ⟨hlt, hstop, hq⟩ := h
    exact ⟨hlt, Nat.le_trans hstop hf, hdue hq⟩
  · rw [ReconUnit.itemFits_sectionEnd hi] at h ⊢
    exact ⟨Nat.le_trans h.1 hf, hdue h.2⟩

/-- The block in hand agrees with F after F has risen. -/
theorem ReconUnit.blockFits.mono {f' : Nat} (h : u.blockFits f) (hf : f ≤ f') : u.blockFits f' := by
  intro k hk
  have hfits := h k hk
  split
  · next hw =>
    rw [hw] at hfits
    exact ⟨hfits.1, Nat.lt_of_lt_of_le hfits.2 hf⟩
  all_goals
    next hw =>
      rw [hw] at hfits
      exact hfits

end

/-! ### CT takes a report -/

section

variable {due : Option Nat} {j : Job} (h : j.Laws due)
include h

omit h in
/-- A change of CT that keeps its own laws keeps the others. -/
theorem Job.LawsBut.withTracker (h : j.LawsBut due) {t : Tracker} (hspan : t.InTarget j.descriptor.targetLength) (hg : j.tracker.Goes t) (hlist : t.ListExact)
    (hscan : t.ScanExact) (hsome : t.scan.isSome = true → j.tracker.scan.isSome = true) : Job.LawsBut due { j with tracker := t } where
  target := by
    have ht := h.target
    rw [Job.inTarget_iff] at ht ⊢
    obtain ⟨hfit, _, hstream, hunit⟩ := ht
    exact ⟨hfit, hspan, hstream, hunit⟩
  lists := hg.lists h.lists
  list := hlist
  scan := hscan
  block := h.block.mono hg.frontier
  stream := ⟨h.stream.follow, h.stream.place, h.stream.running, h.stream.fault⟩
  stops := ⟨h.stops.decoder, h.stops.unit, h.stops.order⟩
  activity := ⟨h.activity.still, h.activity.faulted, h.activity.itemless, h.activity.waits,
    fun fill hfill => Nat.le_trans (h.activity.fill fill hfill) hg.frontier⟩
  checks := by
    have hlen : t.map.length = j.tracker.map.length := hspan.1.trans h.target.tracker.1.symm
    refine ⟨fun task hmem => Nat.le_trans (h.checks.tasks task hmem) hg.frontier, fun c hc => ?_⟩
    obtain ⟨hnext, hfull, hp⟩ := h.checks.close c hc
    refine ⟨?_, ?_, hp⟩
    · show c.next < t.map.length
      rw [hlen]
      exact hnext
    · show t.map.length ≤ t.frontier
      rw [hlen]
      exact Nat.le_trans hfull hg.frontier
  scanning := fun hs => h.scanning (hsome hs)

theorem Job.Laws.withTracker {t : Tracker} (hspan : t.InTarget j.descriptor.targetLength) (hg : j.tracker.Goes t) (hlist : t.ListExact)
    (hscan : t.ScanExact) (hsome : t.scan.isSome = true → j.tracker.scan.isSome = true) : Job.Laws due { j with tracker := t } :=
  ⟨h.toLawsBut.withTracker hspan hg hlist hscan hsome, h.item.mono hg.frontier⟩

/-- A change of the job that none of the laws reads. -/
theorem Job.Laws.own {j' : Job} (ht : j'.InTarget) (hu : j'.unit = j.unit) (htr : j'.tracker = j.tracker) (hv : j'.verifier = j.verifier)
    (hd : j'.decoder = j.decoder) (hq : j'.queue = j.queue) (hsd : j'.signals.decoderStop = j.signals.decoderStop)
    (hsu : j'.signals.unitStop = j.signals.unitStop) (hp : j'.phase = j.phase) : j'.Laws due := by
  have hs : j.Slides j' := ⟨hu, htr, hv, hsd, hsu, Or.inl hp⟩
  refine h.slides hs ht ⟨?_, fun hlive => ?_, fun hr => ?_, fun hm => ?_⟩
  · rw [hq, hd]
    exact h.stream.follow
  · rw [hd, hp] at hlive
    rw [hq, hd]
    exact h.stream.place hlive
  · rw [hp]
    exact h.stream.running (hd ▸ hr)
  · rw [hd, hp]
    exact h.stream.fault (hd ▸ hm)

/-- No scan stands while RU has a block in hand. -/
theorem Job.Laws.scan_none_of_block {k : BlockInHand} (hb : j.unit.block = some k) : j.tracker.scan = none := by
  cases hs : j.tracker.scan with
  | none => rfl
  | some sc =>
    obtain ⟨hnone, _⟩ := h.scanning (by rw [hs]; rfl)
    cases hb.symm.trans hnone

/-- No scan stands while a close is in progress. -/
theorem Job.Laws.scan_none_of_close {c : CloseOperation} (hc : j.verifier.close = some c) : j.tracker.scan = none := by
  cases hs : j.tracker.scan with
  | none => rfl
  | some sc =>
    obtain ⟨_, hnone, _⟩ := h.scanning (by rw [hs]; rfl)
    cases hc.symm.trans hnone

end

section

variable {due : Option Nat} {w : Work} (h : w.job.Laws due)
include h

/-- CT takes a report that keeps its own laws. -/
theorem Work.laws_account {a : Account} (hspan : a.tracker.InTarget w.job.descriptor.targetLength) (hg : w.job.tracker.Goes a.tracker)
    (hlist : a.tracker.ListExact) (hscan : a.tracker.ScanExact)
    (hsome : a.tracker.scan.isSome = true → w.job.tracker.scan.isSome = true) : (w.account a).job.Laws due := by
  obtain ⟨ns, he, _⟩ := w.account_spec a
  rw [he]
  exact h.withTracker hspan hg hlist hscan hsome

/-- CT takes a report that leaves its scan, where none stands. -/
theorem Work.laws_account_still {a : Account} (hspan : a.tracker.InTarget w.job.descriptor.targetLength) (hg : w.job.tracker.Goes a.tracker)
    (hlist : a.tracker.ListExact) (hscan : a.tracker.scan = w.job.tracker.scan) (hnone : w.job.tracker.scan = none) :
    (w.account a).job.Laws due :=
  Work.laws_account h hspan hg hlist (.of_none (hscan.trans hnone)) (fun hs => by rw [hscan] at hs; exact hs)

end

/-! ### VE's queue -/

section

variable {due : Option Nat} {j : Job} (h : j.Laws due)
include h

/-- RU's task joins VE's queue in VERIFY_WAIT (R125). -/
theorem Job.Laws.handOff : j.handOff.Laws due := by
  unfold Job.handOff
  split
  · next t hwait htask =>
    split
    · have hjoined : j.Keeps { j with verifier := j.verifier.join t } := Job.keeps_mapVerifier (Verifier.join t) j
      have hhanded := hjoined.trans
        (Job.keeps_unit (u := { j.unit with activity := .idle, item := none }) rfl (Or.inr rfl) (Or.inl rfl) (Or.inl rfl) rfl)
      have htarget := hhanded.starts.target h.target
      obtain ⟨c, hc, htc⟩ := Option.bind_eq_some_iff.mp htask
      obtain ⟨item, next, stop⟩ := c
      have hblock : j.unit.block = none := by
        cases hb : j.unit.block with
        | none => rfl
        | some k =>
          have hfits := h.block k hb
          cases hw : k.work <;> simp [hw, hwait] at hfits
      cases item with
      | sectionEnd number start count digest =>
        cases digest with
        | none => cases htc
        | some digest =>
          cases htc
          have hfits := (ReconUnit.itemFits_sectionEnd hc).mp h.item
          exact {
            target := htarget
            lists := h.lists
            list := h.list
            scan := h.scan
            item := (ReconUnit.itemFits_none rfl).mpr hfits.2
            block := fun k hk => by cases hblock.symm.trans hk
            stream := ⟨h.stream.follow, h.stream.place, h.stream.running, h.stream.fault⟩
            stops := ⟨h.stops.decoder, h.stops.unit, h.stops.order⟩
            activity := ⟨fun _ => rfl, fun _ => Or.inl rfl, fun _ _ => rfl, fun ha => (nomatch ha), h.activity.fill⟩
            checks := ⟨fun task hmem => (List.mem_append.mp hmem).elim (h.checks.tasks task)
              (fun hmem => by rw [List.mem_singleton.mp hmem]; exact hfits.1), h.checks.close⟩
            scanning := fun hs => by
              obtain ⟨_, hclose, hp⟩ := h.scanning hs
              exact ⟨hblock, hclose, hp.imp (fun ⟨hp, _⟩ => ⟨hp, rfl⟩) id⟩ }
      | sectionBegin | block | abandon | imageEnd => cases htc
    · exact h
  · exact h

theorem Job.Laws.beginTask (o : Bool) : (j.beginTask o).Laws due := by
  refine h.withVerifier (v := j.verifier.beginTask j.descriptor.targetFirst o) (fun t ht => ?_) (fun c hc => ?_)
  · rwa [Verifier.beginTask_tasks] at ht
  · unfold Verifier.beginTask at hc
    split at hc
    · exact hc
    · split at hc <;> exact hc

theorem Job.Laws.endTask : j.endTask.Laws due := by
  have hdropped : (j.mapVerifier (fun v => { v with tasks := v.tasks.drop 1, progress := none })).Laws due :=
    h.withVerifier (fun t ht => List.mem_of_mem_drop ht) (fun c hc => hc)
  exact hdropped.handOff.beginTask false

theorem Job.Laws.cancelTasks (b : Nat) (o : Bool) : (j.cancelTasks b o).Laws due := by
  have hcancelled : (j.mapVerifier (Verifier.cancel b o)).Laws due := by
    refine h.withVerifier (fun t ht => ?_) (fun c hc => ?_)
    · rw [Verifier.cancel_tasks] at ht
      exact (List.mem_filter.mp ht).1
    · unfold Verifier.cancel at hc
      dsimp only at hc
      split at hc <;> exact hc
  exact hcancelled.handOff.beginTask o

/-- VE takes its stop of an ABORT. -/
theorem Job.Laws.stopVerifier (o : Bool) : (j.stopVerifier o).Laws due := by
  have hempty := h.withVerifier (v := ⟨[], none, none, none, o⟩) (fun t ht => nomatch ht) (fun c hc => nomatch hc)
  exact hempty.own ((j.keeps_stopVerifier o).starts.target h.target) rfl rfl rfl rfl rfl rfl rfl rfl

theorem Job.Laws.discardedRead : j.discardedRead.Laws due := by
  have hbegun : Job.Laws due (Job.beginTask false { j with verifier := { j.verifier with discarded := false } }) :=
    Job.Laws.beginTask (h.withVerifier (v := { j.verifier with discarded := false }) (fun t ht => ht) (fun c hc => hc)) false
  have htarget := j.keeps_discardedRead.starts.target h.target
  rw [Job.discardedRead_eq] at htarget ⊢
  dsimp only at htarget ⊢
  split at htarget
  · next hp =>
    rw [if_pos hp]
    exact hbegun.own htarget rfl rfl rfl rfl rfl rfl rfl rfl
  · next hp =>
    rw [if_neg hp]
    exact hbegun

end

/-! ### VE's reads -/

section

variable {due : Option Nat} {w : Work} (h : w.job.Laws due)
include h

/-- A task of VE's queue ends (R127, R128). -/
theorem Work.laws_taskEnds {t : DigestTask} (ht : t ∈ w.job.verifier.tasks) (outcome : TaskOutcome) :
    (w.taskEnds t outcome).job.Laws due := by
  have htracker := h.target.tracker
  have hreported : (w.account (w.job.tracker.sectionResult t.start t.count outcome)).job.Laws due := by
    refine Work.laws_account h (htracker.sectionResult _ _ _) (Tracker.goes_sectionResult _ _ _ _)
      (h.list.sectionResult h.lists.1 (h.checks.tasks t ht) ?_ outcome) (h.scan.sectionResult _ _ _) (fun hs => ?_)
    · rw [htracker.1]
      exact htracker.2
    · obtain ⟨a, hlist, he⟩ := w.job.tracker.sectionResult_listOnly t.start t.count outcome
      obtain ⟨_, _, hscan⟩ := hlist.fields
      rw [he] at hs
      have hs : (a.tracker.restartScan w.job.tracker.map).scan.isSome = true := hs
      rcases a.tracker.restartScan_spec w.job.tracker.map with hr | ⟨sc, hsc, _⟩
      · rw [hr, hscan] at hs
        exact hs
      · exact Option.isSome_iff_exists.mpr ⟨sc, (hscan.symm.trans hsc)⟩
  unfold Work.taskEnds
  cases outcome with
  | isMatch => exact hreported.endTask
  | mismatch =>
    refine Job.Laws.endTask ?_
    dsimp only
    rw [Work.report_job]
    exact hreported.count _ _
  | check b =>
    refine Job.Laws.endTask ?_
    dsimp only
    rw [Work.report_job]
    exact hreported

/-- The close ends, with READY or CLOSED (R134, R135). -/
theorem Work.laws_closeEnds {phase : JobPhase} (hp' : phase = .ready ∨ phase = .closed) (n : Notice) :
    (w.closeEnds phase n).job.Laws due := by
  have hended : (w.job.mapVerifier (fun v => { v with close := none })).Laws due :=
    h.withVerifier (fun t ht => ht) (fun c hc => nomatch hc)
  unfold Work.closeEnds
  dsimp only
  split
  · next hp =>
    have hp : w.job.phase = .closing := hp
    have hne (p : JobPhase) (hq : p ≠ .closing) : w.job.phase ≠ p := fun h' => hq (h'.symm.trans hp)
    have hr := h.running_false (hne _ (by decide)) (hne _ (by decide)) (hne _ (by decide)) (hne _ (by decide))
    have hm := h.mark_false (hne _ (by decide)) (hne _ (by decide)) (hne _ (by decide))
    have hstill : w.job.unit.activity = .idle := h.activity.still (Or.inr (Or.inl hp))
    refine hended.movesTo (hne _ (by decide)) ?_ (fun hr' => ?_) (fun hm' => ?_) (fun _ => hstill) (fun _ => Or.inl hstill) rfl
      (h.scan_none (hne _ (by decide)) (hne _ (by decide)))
    · rcases hp' with rfl | rfl <;> decide
    · cases hr.symm.trans hr'
    · cases hm.symm.trans hm'
  · exact hended

/-- A read of the whole-image check (R133 to R135). -/
theorem Work.laws_closeRead {c : CloseOperation} (hc : w.job.verifier.close = some c) (data : Option Bytes) :
    (w.closeRead c data).job.Laws due := by
  have htracker := h.target.tracker
  have hnone := h.scan_none_of_close hc
  obtain ⟨hnext, hfull, hp⟩ := h.checks.close c hc
  unfold Work.closeRead
  cases data with
  | none =>
    refine Work.laws_closeEnds ?_ (Or.inl rfl) _
    exact Work.laws_account_still h (htracker.closeCheck _) (Tracker.goes_closeCheck _ _)
      (h.list.closeCheck hnext (Nat.lt_of_lt_of_le hnext hfull)) (Tracker.addRange_listOnly _ _).fields.2.2 hnone
  | some bytes =>
    dsimp only
    split
    · split
      · refine Work.laws_closeEnds ?_ (Or.inr rfl) _
        refine Work.laws_account_still h htracker.closeMatch (Tracker.goes_closeMatch _) (h.list.closeMatch h.lists.1 ?_)
          (Tracker.removeBlocks_listOnly _ _).fields.2.2 hnone
        exact Nat.le_antisymm (by rw [htracker.1]; exact htracker.2) hfull
      · exact Work.laws_closeEnds h (Or.inl rfl) _
    · next hlast =>
      have hstopped : Job.Laws due { w.job with verifier := { w.job.verifier with close := none } } :=
        h.withVerifier (fun t ht => ht) (fun c hc => nomatch hc)
      have hmore : c.next + 1 < w.job.tracker.map.length := by
        rw [htracker.1] at hnext ⊢
        omega
      exact {
        target := (Job.keeps_mapVerifier _ w.job).starts.target h.target
        lists := h.lists
        list := h.list
        scan := h.scan
        item := h.item
        block := h.block
        stream := ⟨h.stream.follow, h.stream.place, h.stream.running, h.stream.fault⟩
        stops := ⟨h.stops.decoder, h.stops.unit, h.stops.order⟩
        activity := ⟨h.activity.still, h.activity.faulted, h.activity.itemless, h.activity.waits, h.activity.fill⟩
        checks := ⟨h.checks.tasks, fun c' hc' => by
          cases hc'
          exact ⟨hmore, hfull, hp⟩⟩
        scanning := fun hs => by
          have hs : w.job.tracker.scan.isSome = true := hs
          rw [hnone] at hs
          cases hs }

theorem Work.laws_taskRead {t : DigestTask} (ht : t ∈ w.job.verifier.tasks) (p : TaskProgress) (data : Option Bytes) :
    (w.taskRead t p data).job.Laws due := by
  unfold Work.taskRead
  cases data with
  | none => exact Work.laws_taskEnds h ht _
  | some bytes =>
    dsimp only
    split
    · exact Work.laws_taskEnds h ht _
    · exact h.withVerifier (fun t ht => ht) (fun c hc => hc)

/-- VE's read completes (R126 to R137). -/
theorem Work.laws_verifierRead (data : Option Bytes) : (w.verifierRead data).job.Laws due := by
  unfold Work.verifierRead
  dsimp only
  split
  · exact h.discardedRead
  · split
    · next c _ _ hc => exact Work.laws_closeRead h hc data
    · next t rest p _ ht _ => exact Work.laws_taskRead h (by rw [ht]; exact List.mem_cons_self ..) p data
    · exact h

end

/-! ### Requests in READY -/

/-- The test of a close passes only where F is at the end of the target (R132). -/
theorem Job.closeTest_full {j : Job} {o : Bool} {expected : Word32} (h : j.closeTest o = .ok expected) :
    j.descriptor.targetLength ≤ j.tracker.frontier := by
  unfold Job.closeTest at h
  split at h
  · split at h
    · cases h
    · next hlt => exact Nat.le_of_not_lt hlt
  · cases h

section

variable {due : Option Nat} {j : Job} (h : j.Laws due) (hp : j.phase = .ready)
include h hp

/-- What the laws say in READY: RU is idle with nothing in hand, and neither SD, a close nor a scan is at work. -/
theorem Job.Laws.ready : j.unit.activity = .idle ∧ j.unit.block = none ∧ j.decoder.running = false ∧ j.decoder.faultMark = false ∧
    j.verifier.close = none ∧ j.tracker.scan = none := by
  have hne (p : JobPhase) (hq : p ≠ .ready) : j.phase ≠ p := fun h' => hq (h'.symm.trans hp)
  have hidle := h.activity.still (Or.inl hp)
  exact ⟨hidle, h.block_none (Or.inl hidle), h.running_false (hne _ (by decide)) (hne _ (by decide)) (hne _ (by decide)) (hne _ (by decide)),
    h.mark_false (hne _ (by decide)) (hne _ (by decide)) (hne _ (by decide)), h.close_none (hne _ (by decide)) (hne _ (by decide)),
    h.scan_none (hne _ (by decide)) (hne _ (by decide))⟩

/-- A move from READY to SERVICING or CLOSING. -/
theorem Job.Laws.leaveReady {phase : JobPhase} (hp' : phase = .servicing ∨ phase = .closing) : Job.Laws due { j with phase := phase } := by
  obtain ⟨hidle, _, hr, hm, hclose, hscan⟩ := h.ready hp
  refine h.movesTo (by rw [hp]; decide) ?_ (fun hr' => ?_) (fun hm' => ?_) (fun _ => hidle) (fun _ => Or.inl hidle) hclose hscan
  · rcases hp' with rfl | rfl <;> decide
  · cases hr.symm.trans hr'
  · cases hm.symm.trans hm'

theorem Job.Laws.waive {body : Bytes} {r : BlockRange} (hr : readWaiveRange j.tracker.frontier body = .ok r) :
    Job.Laws due { j with tracker := (j.tracker.waive r).tracker } := by
  obtain ⟨_, _, _, _, _, hscan⟩ := h.ready hp
  have htracker := h.target.tracker
  have hbelow : r.stop ≤ j.tracker.frontier := by
    rw [readWaiveRange_eq] at hr
    split at hr
    · next hb =>
      cases hr
      exact hb.2
    · cases hr
  have hsame : (j.tracker.waive r).tracker.scan = j.tracker.scan := (Tracker.removeBlocks_listOnly _ _).fields.2.2
  refine h.withTracker (htracker.waive r) (Tracker.goes_waive _ _) (h.list.waive h.lists.1 hbelow ?_) (.of_none (hsame.trans hscan))
    (fun hs => by rw [hsame] at hs; exact hs)
  rw [htracker.1]
  exact htracker.2

theorem Job.Laws.repairScan : Job.Laws due { j with phase := .servicing, tracker := j.tracker.startScan } := by
  obtain ⟨hidle, hblock, _, _, hclose, _⟩ := h.ready hp
  have hmoved := h.leaveReady hp (Or.inl rfl)
  exact {
    target := (Job.keeps_repairScan hp).starts.target h.target
    lists := (Tracker.goes_startScan j.tracker).lists h.lists
    list := h.list
    scan := j.tracker.scanExact_startScan
    item := h.item
    block := h.block
    stream := ⟨hmoved.stream.follow, hmoved.stream.place, hmoved.stream.running, hmoved.stream.fault⟩
    stops := ⟨hmoved.stops.decoder, hmoved.stops.unit, hmoved.stops.order⟩
    activity := ⟨hmoved.activity.still, hmoved.activity.faulted, hmoved.activity.itemless, hmoved.activity.waits, hmoved.activity.fill⟩
    checks := ⟨hmoved.checks.tasks, hmoved.checks.close⟩
    scanning := fun _ => ⟨hblock, hclose, Or.inl ⟨rfl, hidle⟩⟩ }

theorem Job.Laws.beginClose {o : Bool} {expected : Word32} (ht : j.closeTest o = .ok expected) : (j.beginClose expected).Laws due := by
  obtain ⟨_, _, _, _, _, hscan⟩ := h.ready hp
  have hmoved := h.leaveReady hp (Or.inr rfl)
  have htracker := h.target.tracker
  have hfull := Job.closeTest_full ht
  exact {
    target := (Job.keeps_beginClose expected hp).starts.target h.target
    lists := h.lists
    list := h.list
    scan := h.scan
    item := h.item
    block := h.block
    stream := ⟨hmoved.stream.follow, hmoved.stream.place, hmoved.stream.running, hmoved.stream.fault⟩
    stops := ⟨hmoved.stops.decoder, hmoved.stops.unit, hmoved.stops.order⟩
    activity := ⟨hmoved.activity.still, hmoved.activity.faulted, hmoved.activity.itemless, hmoved.activity.waits, hmoved.activity.fill⟩
    checks := ⟨hmoved.checks.tasks, fun c hc => by
      cases hc
      refine ⟨?_, ?_, Or.inl rfl⟩
      · show 0 < j.tracker.map.length
        rw [htracker.1]
        exact h.target.fits.1
      · show j.tracker.map.length ≤ j.tracker.frontier
        rw [htracker.1]
        exact hfull⟩
    scanning := fun hs => by
      have hs : j.tracker.scan.isSome = true := hs
      rw [hscan] at hs
      cases hs }

end

/-! ### The walk -/

section

variable {due : Option Nat} {j : Job} (h : j.Laws due)
include h

theorem Job.Laws.stopScan : j.stopScan.Laws due := by
  have hstopped : Job.Laws due { j with tracker := { j.tracker with scan := none } } :=
    h.withTracker h.target.tracker (Tracker.goes_stopScan _) h.list (.of_none rfl) (fun hs => nomatch hs)
  exact hstopped.own (j.keeps_stopScan.starts.target h.target) rfl rfl rfl rfl rfl rfl rfl rfl

/-- A step of the walk: it goes on, or gives the repair list and the job returns to READY (R39, R41). -/
theorem Job.Laws.scanVisit (hcan : j.canScan = true) : j.scanVisit.job.Laws due := by
  have hp : j.phase = .servicing := by
    simp only [Job.canScan, Bool.and_eq_true, beq_iff_eq] at hcan
    exact hcan.1
  have hne (p : JobPhase) (hq : p ≠ .servicing) : j.phase ≠ p := fun h' => hq (h'.symm.trans hp)
  have htracker := h.target.tracker
  unfold Job.scanVisit
  split
  · exact h
  · next sc hsc =>
    have hspan := htracker.scanStep sc
    have hgoes := Tracker.goes_scanStep hsc
    have hexact := Tracker.visited_exactIn h.lists h.scan hsc
    by_cases hend : (j.tracker.visited sc).foundMore = true ∨ j.tracker.frontier ≤ (j.tracker.visited sc).position
    · rw [Tracker.scanStep_ends hend] at hspan hgoes ⊢
      have horder : (j.tracker.visited sc).InOrder := by
        unfold Tracker.visited
        split
        · exact Scan.InOrder.visit (h.lists.2 sc hsc) _
        · exact h.lists.2 sc hsc
      have hnone : (j.tracker.completeScan (j.tracker.visited sc)).tracker.scan = none := by rw [Tracker.completeScan_eq]
      have hdone : Job.Laws due { j with tracker := (j.tracker.completeScan (j.tracker.visited sc)).tracker } :=
        h.withTracker hspan hgoes (h.list.completeScan hexact horder hend) (.of_none hnone) (fun hs => by rw [hnone] at hs; cases hs)
      obtain ⟨ns, he, _⟩ := (Work.mk j []).account_spec (j.tracker.completeScan (j.tracker.visited sc))
      obtain ⟨_, hclose, hidle⟩ := h.scanning (by rw [hsc]; rfl)
      have hidle : j.unit.activity = .idle := hidle.elim (fun hidle => hidle.2) (fun ha => absurd ha (hne _ (by decide)))
      show Job.Laws due { ((Work.mk j []).account _).job with phase := .ready }
      rw [he]
      have hr := h.running_false (hne _ (by decide)) (hne _ (by decide)) (hne _ (by decide)) (hne _ (by decide))
      have hm := h.mark_false (hne _ (by decide)) (hne _ (by decide)) (hne _ (by decide))
      exact hdone.movesTo (hne _ (by decide)) (by decide) (fun hr' => by cases hr.symm.trans hr') (fun hm' => by cases hm.symm.trans hm')
        (fun _ => hidle) (fun _ => Or.inl hidle) hclose hnone
    · simp only [not_or, Bool.not_eq_true, Nat.not_le] at hend
      rw [Tracker.scanStep_goesOn hend.1 hend.2] at hspan hgoes ⊢
      refine h.withTracker hspan hgoes h.list (fun sc' hs => ?_) (fun _ => by rw [hsc]; rfl)
      cases hs
      exact hexact

end

end Sys2Proof.Machine
end

section
/-! RU's blocks, orders and reads in the laws of the repair list (R98, R99, R112, R116 to R118). -/

namespace Sys2Proof.Machine

/-! ### A change of RU's state -/

/-- A new state of RU that agrees with F, the job state and the walk. -/
theorem Job.LawsBut.withUnit {due : Option Nat} {j : Job} (h : j.LawsBut due) {u : ReconUnit} (ht : Job.InTarget { j with unit := u })
    (hitem : u.itemFits j.tracker.frontier due) (hblock : u.blockFits j.tracker.frontier) (horder : u.order = .stop → j.phase = .aborting)
    (hactivity : Job.ActivityFits { j with unit := u })
    (hscan : j.tracker.scan.isSome = true → u.block = none ∧ (j.phase = .servicing → u.activity = .idle)) :
    Job.Laws due { j with unit := u } where
  target := ht
  lists := h.lists
  list := h.list
  scan := h.scan
  item := hitem
  block := hblock
  stream := ⟨h.stream.follow, h.stream.place, h.stream.running, h.stream.fault⟩
  stops := ⟨h.stops.decoder, h.stops.unit, horder⟩
  activity := hactivity
  checks := ⟨h.checks.tasks, h.checks.close⟩
  scanning := fun hs => by
    obtain ⟨_, hclose, hp⟩ := h.scanning hs
    obtain ⟨hnone, hidle⟩ := hscan hs
    exact ⟨hnone, hclose, hp.imp (fun ⟨hp, _⟩ => ⟨hp, hidle hp⟩) id⟩

/-- RU is at work on its item: a BLOCK item that it builds, or an item whose hole it fills. -/
def ReconUnit.WorksOn (c : CurrentItem) (u : ReconUnit) : Prop :=
  u.item = some c ∧ ((∃ i, c.item = .block i) ∧ u.activity = .build ∨ c.item.IsHole ∧ u.activity = .hole)

theorem Item.IsHole.not_block {item : Item} (h : item.IsHole) (i : BlockItem) : item ≠ .block i := by
  rcases h with ⟨start, rfl⟩ | ⟨digest, rfl⟩ <;> exact fun h => nomatch h

theorem ReconUnit.WorksOn.build {c : CurrentItem} {u : ReconUnit} (h : u.WorksOn c) {i : BlockItem} (hi : c.item = .block i) :
    u.activity = .build := by
  rcases h.2 with ⟨_, ha⟩ | ⟨hh, _⟩
  · exact ha
  · exact absurd hi (hh.not_block i)

theorem ReconUnit.WorksOn.hole {c : CurrentItem} {u : ReconUnit} (h : u.WorksOn c) (hh : c.item.IsHole) : u.activity = .hole := by
  rcases h.2 with ⟨⟨i, hi⟩, _⟩ | ⟨_, ha⟩
  · exact absurd hi (hh.not_block i)
  · exact ha

theorem ReconUnit.blockFits_none {f : Nat} {u : ReconUnit} (h : u.block = none) : u.blockFits f := fun k hk => by cases h.symm.trans hk

/-- RU is idle in READY, CLOSING and CLOSED: an RU at work is in none of them. -/
theorem Job.ActivityFits.of_working {j : Job} {u : ReconUnit} (h : j.ActivityFits) (ha : j.unit.activity ≠ .idle)
    (hfaulted : j.phase = .faulted → u.activity = .idle ∨ u.activity = .halted)
    (hitemless : j.phase ≠ .aborting → u.activity = .idle ∨ u.activity = .fill → u.item = none)
    (hwaits : u.activity = .verifyWait → ∀ c, u.item = some c → c.item.task? ≠ none)
    (hfill : ∀ f, u.fill = some f → f.first + f.count ≤ j.tracker.frontier) : Job.ActivityFits { j with unit := u } :=
  ⟨fun hp => absurd (h.still hp) ha, hfaulted, hitemless, hwaits, hfill⟩

section

variable {due : Option Nat} {j : Job} (h : j.Laws due)
include h

/-- The block in hand is done with. -/
theorem Job.Laws.dropBlock : Job.Laws due { j with unit := { j.unit with block := none } } := by
  refine h.withUnit ?_ h.item (ReconUnit.blockFits_none rfl) h.stops.order
    ⟨h.activity.still, h.activity.faulted, h.activity.itemless, h.activity.waits, h.activity.fill⟩ (fun hs => ⟨rfl, fun hp => ?_⟩)
  · exact (Job.keeps_unit (u := { j.unit with block := none }) rfl (Or.inl rfl) (Or.inr rfl) (Or.inl rfl) rfl).starts.target h.target
  · obtain ⟨_, _, ⟨_, hidle⟩ | ha⟩ := h.scanning hs
    · exact hidle
    · cases hp.symm.trans ha

/-- RU's orders change nothing else, and none of them is a stop outside ABORTING. -/
theorem Job.Laws.takeQuiescing : j.takeQuiescing.Laws due := by
  have htaken : Job.Laws due { j with signals := { j.signals with quiescing := false } } :=
    h.own (((Job.inTarget_iff _).mpr ((Job.inTarget_iff j).mp h.target))) rfl rfl rfl rfl rfl rfl rfl rfl
  unfold Job.takeQuiescing
  dsimp only
  split
  · refine htaken.sameUnit (u := { j.unit with order := .quiesce }) ?_ rfl rfl rfl rfl (fun ho => nomatch ho)
    have ht := h.target
    rw [Job.inTarget_iff] at ht ⊢
    exact ht
  · exact htaken

theorem Job.Laws.expireMonitor : j.expireMonitor.job.Laws due := (h.withMonitor .expired).count _ _

/-- A block's transaction is requested, for the block's item or FILL. -/
theorem Job.Laws.startBlock {b : Nat} {work : BlockWork} {op : StoreOp} (hop : op.IsFor j.descriptor b) (hb : b < j.descriptor.targetLength)
    (hfits : (j.unit.startBlock b work op).blockFits j.tracker.frontier) (hscan : j.tracker.scan = none) :
    Job.Laws due { j with unit := j.unit.startBlock b work op } := by
  refine h.withUnit ((Job.starts_startBlock hop hb).target h.target) h.item hfits h.stops.order
    ⟨h.activity.still, h.activity.faulted, h.activity.itemless, h.activity.waits, h.activity.fill⟩ (fun hs => ?_)
  rw [hscan] at hs
  cases hs

/-- RU halts at a fault of its own (R116). -/
theorem Job.Laws.unitFault (ha : j.unit.activity ≠ .idle) (code : FaultCode) (number : Option Word16) (b : Nat) :
    (j.unitFault code number b).Laws due := by
  have hhalted : Job.Laws due { j with unit := { j.unit with activity := .halted, block := none, waiting := none } } := by
    refine h.withUnit ?_ h.item (ReconUnit.blockFits_none rfl) h.stops.order
      (h.activity.of_working ha (fun _ => Or.inr rfl) (fun _ hidle => by simp at hidle) (fun hw => nomatch hw) h.activity.fill)
      (fun hs => ⟨rfl, fun hp => ?_⟩)
    · have hu := h.target.unit
      exact (Job.starts_unit (j := j) (u := { j.unit with activity := .halted, block := none, waiting := none }) rfl id
        fun _ => hu.mono (Or.inl rfl) (Or.inr rfl) (Or.inl rfl) (Or.inr rfl)).target h.target
    · obtain ⟨_, _, ⟨_, hidle⟩ | haborting⟩ := h.scanning hs
      · exact absurd hidle ha
      · cases hp.symm.trans haborting
  exact hhalted.slides (Job.slides_reportFault _ _) ((Job.keeps_reportFault _ _).starts.target hhalted.target) (hhalted.stream.reportFault _)

/-- RU starts its item's next block (R99, R104, R112). -/
theorem Job.Laws.startItemBlock {c : CurrentItem} (hwork : j.unit.WorksOn c) (hnext : c.next < j.descriptor.targetLength)
    (hscan : j.tracker.scan = none) : (j.startItemBlock c).Laws due := by
  have hstarted := j.startItemBlock_started c
  generalize j.startItemBlock c = j' at hstarted ⊢
  obtain ⟨item, next, stop⟩ := c
  cases hstarted with
  | block i work op hitem hw hop =>
    refine h.startBlock hop hnext (fun k hk => ?_) hscan
    have hitem : item = .block i := hitem
    have hcurrent : j.unit.activity = .build ∧ ∃ i stop, j.unit.item = some ⟨.block i, next, stop⟩ :=
      ⟨hwork.build hitem, i, stop, by rw [hwork.1, hitem]⟩
    cases hk
    cases work with
    | skipped | ownCopy | ownSelf | ownData => exact hcurrent
    | holeFill | hostFill => exact hw.elim
  | hole op hitem hop =>
    refine h.startBlock hop hnext (fun k hk => ?_) hscan
    cases hk
    exact ⟨hwork.hole hitem, item, stop, hwork.1, hitem⟩
  | fault i code hitem => exact h.unitFault (by rw [hwork.build hitem]; decide) _ _ _
  | none => exact h

/-- RU's read completes with the block's content: its write is requested. -/
theorem Job.Laws.requestWrite {k : BlockInHand} (hk : j.unit.block = some k) (bytes : Bytes) :
    Job.Laws due { j with unit := j.unit.startBlock k.target k.work (.write (j.descriptor.targetIndex k.target) bytes) } := by
  refine h.startBlock (Or.inr ⟨_, rfl⟩) (h.target.unit.2.1 k hk) (fun k' hk' => ?_) (h.scan_none_of_block hk)
  have hfits := h.block k hk
  cases hk'
  exact hfits

/-- RU after its stop of an ABORT, with nothing in hand (R118). -/
theorem Job.Laws.unitStopped (hp : j.phase = .aborting) : j.unitStopped.Laws due where
  target := h.target.unitStopped
  lists := h.lists
  list := h.list
  scan := h.scan
  item := h.item
  block := ReconUnit.blockFits_none rfl
  stream := ⟨h.stream.follow, h.stream.place, h.stream.running, h.stream.fault⟩
  stops := ⟨h.stops.decoder, h.stops.unit, h.stops.order⟩
  activity := by
    refine ⟨fun hp' => ?_, fun hp' => (by cases hp.symm.trans hp'), fun hp' => absurd hp hp', fun hw => ?_, h.activity.fill⟩
    · have hp' : j.phase = .ready ∨ j.phase = .closing ∨ j.phase = .closed := hp'
      simp [hp] at hp'
    · cases ha : j.unit.activity <;> simp [Job.unitStopped, ha] at hw
  checks := ⟨h.checks.tasks, h.checks.close⟩
  scanning := fun hs => ⟨rfl, (h.scanning hs).2.1, Or.inr hp⟩

/-- The block due is at most F where RU holds no BLOCK item. -/
theorem Job.Laws.due_le (hi : ∀ i next stop, j.unit.item ≠ some ⟨.block i, next, stop⟩) : ∀ q, due = some q → q ≤ j.tracker.frontier := by
  have hfits := h.item
  rcases hfits.cases with hnone | ⟨i, next, stop, hblock⟩ | ⟨item, next, stop, hitem, hh⟩ | ⟨number, start, count, digest, next, stop, hend⟩
  · exact (ReconUnit.itemFits_none hnone).mp hfits
  · exact absurd hblock (hi i next stop)
  · exact ((ReconUnit.itemFits_hole hitem hh).mp hfits).2.2
  · exact ((ReconUnit.itemFits_sectionEnd hend).mp hfits).2

/-- RU takes its stop of an ABORT; a SECTION_END in VERIFY_WAIT is dropped (R118). -/
theorem Job.Laws.stopUnit (hp : j.phase = .aborting) (o : Bool) : (j.stopUnit o).Laws due := by
  have hordered : Job.Laws due { j with
      signals := { j.signals with unitStop := false }
      unit := { j.unit with
        order := .stop, waiting := none, fill := none
        item := if j.unit.activity = .verifyWait then none else j.unit.item
        monitor := .stopped } } := {
    target := by
      have ht := h.target
      have hu := ht.unit
      rw [Job.inTarget_iff] at ht ⊢
      obtain ⟨hfit, htr, hst, _⟩ := ht
      refine ⟨hfit, htr, hst, hu.mono ?_ (Or.inl rfl) (Or.inr rfl) (Or.inr rfl)⟩
      split
      · exact Or.inr rfl
      · exact Or.inl rfl
    lists := h.lists
    list := h.list
    scan := h.scan
    item := by
      by_cases hw : j.unit.activity = .verifyWait
      · rw [ReconUnit.itemFits_none (if_pos hw)]
        refine h.due_le fun i next stop hi => h.activity.waits hw _ hi rfl
      · rw [if_neg hw]
        exact h.item
    block := fun k hk => by
      have hfits := h.block k hk
      have hw : j.unit.activity ≠ .verifyWait := fun hw => by cases hwork : k.work <;> simp [hwork, hw] at hfits
      rw [if_neg hw]
      exact hfits
    stream := ⟨h.stream.follow, h.stream.place, h.stream.running, h.stream.fault⟩
    stops := ⟨h.stops.decoder, fun hu => (nomatch hu), fun _ => hp⟩
    activity := by
      refine ⟨h.activity.still, h.activity.faulted, fun hp' => absurd hp hp', fun hw c hc => ?_, fun f hf => (nomatch hf)⟩
      have hw : j.unit.activity = .verifyWait := hw
      rw [if_pos hw] at hc
      cases hc
    checks := ⟨h.checks.tasks, h.checks.close⟩
    scanning := fun hs => ⟨(h.scanning hs).1, (h.scanning hs).2.1, Or.inr hp⟩ }
  unfold Job.stopUnit
  dsimp only
  cases o with
  | true => exact hordered
  | false => exact hordered.unitStopped hp

/-- RU's read completes (R99, R116 to R118, R149). -/
theorem Job.Laws.unitRead (data : Option Bytes) : (j.unitRead data).Laws due := by
  unfold Job.unitRead
  split
  · next hp =>
    dsimp only
    split
    · exact h.dropBlock.unitStopped hp
    · exact h.dropBlock
  · split
    · next k hk =>
      unfold Job.blockRead
      split
      · refine h.unitFault (fun ha => ?_) _ _ _
        cases (h.block_none (Or.inl ha)).symm.trans hk
      · exact h.requestWrite hk _
    · exact h

end

end Sys2Proof.Machine
end

section
/-! RU's write completions in the laws of the repair list: CT's report, the next block, the end of an item or a FILL (R109, R115, R118). -/

namespace Sys2Proof.Machine

/-! ### CT's report of a write -/

section

variable {due : Option Nat} {j : Job} (h : j.Laws due)
include h

/-- What RU reports of its block: a write report at F or below, or a fill report below F. -/
theorem Job.Laws.report_cases {k : BlockInHand} (hk : j.unit.block = some k) :
    (k.target ≤ j.tracker.frontier ∧ ∃ tainted, ∀ t : Tracker, k.report t = t.writeReport k.target tainted) ∨
      k.target < j.tracker.frontier ∧ ∃ final, ∀ t : Tracker, k.report t = t.fillReport k.target final := by
  have hfits := h.block k hk
  have hitem {i : BlockItem} {stop : Nat} (hi : j.unit.item = some ⟨.block i, k.target, stop⟩) : k.target ≤ j.tracker.frontier :=
    ((ReconUnit.itemFits_block hi).mp h.item).2.2.1
  unfold BlockInHand.report
  cases hw : k.work with
  | hostFill final =>
    rw [hw] at hfits
    exact Or.inr ⟨hfits.2, final, fun t => rfl⟩
  | holeFill =>
    rw [hw] at hfits
    obtain ⟨_, item, stop, hi, hh⟩ := hfits
    obtain ⟨hlt, hstop, _⟩ := (ReconUnit.itemFits_hole hi hh).mp h.item
    exact Or.inr ⟨Nat.lt_of_lt_of_le hlt hstop, false, fun t => rfl⟩
  | ownSelf tainted =>
    rw [hw] at hfits
    obtain ⟨_, i, stop, hi⟩ := hfits
    exact Or.inl ⟨hitem hi, tainted, fun t => rfl⟩
  | skipped | ownCopy | ownData =>
    rw [hw] at hfits
    obtain ⟨_, i, stop, hi⟩ := hfits
    exact Or.inl ⟨hitem hi, false, fun t => rfl⟩

/-- After the report of a block F lies past it. -/
theorem Job.Laws.report_frontier {k : BlockInHand} (hk : j.unit.block = some k) : k.target + 1 ≤ (k.report j.tracker).tracker.frontier := by
  rcases h.report_cases hk with ⟨_, tainted, he⟩ | ⟨hlt, final, he⟩ <;> rw [he]
  · rw [(j.tracker.writeReport_listOnly k.target tainted).fields.2.1]
    exact Nat.le_max_right ..
  · rw [(j.tracker.fillReport_listOnly k.target final).fields.2.1]
    exact hlt

end

section

variable {due : Option Nat} {w : Work} (h : w.job.Laws due)
include h

theorem Work.laws_reportBlock {k : BlockInHand} (hk : w.job.unit.block = some k) : (w.reportBlock k).job.Laws due := by
  have htracker := h.target.tracker
  have hnone := h.scan_none_of_block hk
  have hin : k.target < w.job.descriptor.targetLength := h.target.unit.2.1 k hk
  have hmap : k.target < w.job.tracker.map.length := by rw [htracker.1]; exact hin
  rw [Work.reportBlock_eq]
  rcases h.report_cases hk with ⟨hle, tainted, he⟩ | ⟨hlt, final, he⟩ <;> rw [he]
  · exact Work.laws_account_still h (htracker.writeReport hin _) (Tracker.goes_writeReport _ _ _) (h.list.writeReport h.lists.1 hmap hle _)
      (w.job.tracker.writeReport_listOnly k.target tainted).fields.2.2 hnone
  · exact Work.laws_account_still h (htracker.fillReport _ _) (Tracker.goes_fillReport _ _ _) (h.list.fillReport h.lists.1 hmap hlt _)
      (w.job.tracker.fillReport_listOnly k.target final).fields.2.2 hnone

/-- A write completion before RU's work in hand goes on (R109). -/
theorem Work.laws_written {k : BlockInHand} (hk : w.job.unit.block = some k) (o : Bool) : (w.written k o).job.Laws due := by
  have hcancelled := (Work.laws_reportBlock h hk).cancelTasks k.target o
  have hmonitored : ((w.reportBlock k).job.cancelTasks k.target o).restartMonitor.Laws due := by
    rw [Job.restartMonitor_eq]
    exact hcancelled.withMonitor _
  have hcounted := hmonitored.count k.work.counter 1
  refine Job.Laws.dropBlock (j := Job.recordCarry k _) ?_
  have htarget := (Job.keeps_recordCarry k _).starts.target hcounted.target
  rw [Job.recordCarry_eq] at htarget ⊢
  exact hcounted.sameUnit htarget rfl rfl rfl rfl id

end

/-- What a write completion leaves of RU, before its work in hand goes on. -/
theorem Work.written_unit {w : Work} (hwait : w.job.unit.activity ≠ .verifyWait) (k : BlockInHand) (o : Bool) :
    ∃ monitor carry, (w.written k o).job.unit = { w.job.unit with monitor := monitor, carry := carry, block := none } := by
  unfold Work.written
  rw [Work.reportBlock_eq, Work.account_eq]
  dsimp only [Work.map, Job.mapUnit]
  have hhandOff (v : Verifier) : Job.handOff { w.job with tracker := (k.report w.job.tracker).tracker, verifier := v } =
      { w.job with tracker := (k.report w.job.tracker).tracker, verifier := v } := Job.handOff_none (Or.inl hwait)
  rw [Job.restartMonitor_eq, Job.count_counters, Job.recordCarry_eq]
  unfold Job.cancelTasks Job.mapVerifier
  dsimp only
  rw [hhandOff]
  exact ⟨_, _, rfl⟩

/-! ### The end of an item -/

section

variable {due : Option Nat} {j : Job} (h : j.Laws due)
include h

/-- A finished item leaves RU idle, where the block due is at most F. -/
theorem Job.Laws.finishItem (ha : j.unit.activity ≠ .idle) (hdue : ∀ q, due = some q → q ≤ j.tracker.frontier)
    (hscan : j.tracker.scan = none) (item : Item) : (j.finishItem item).Laws due := by
  have hended : Job.Laws due { j with unit := { j.unit with activity := .idle, item := none, block := none } } := by
    refine h.withUnit ?_ ((ReconUnit.itemFits_none rfl).mpr hdue) (ReconUnit.blockFits_none rfl) h.stops.order
      (h.activity.of_working ha (fun _ => Or.inl rfl) (fun _ _ => rfl) (fun hw => nomatch hw) h.activity.fill) (fun hs => ?_)
    · exact (Job.keeps_unit (u := { j.unit with activity := .idle, item := none, block := none }) rfl (Or.inr rfl) (Or.inr rfl) (Or.inl rfl)
        rfl).starts.target h.target
    · rw [hscan] at hs
      cases hs
  exact hended.own ((j.keeps_finishItem item).starts.target h.target) rfl rfl rfl rfl rfl rfl rfl rfl

theorem Job.Laws.recordEnd (digest : Word32) : (j.recordEnd digest).Laws due := by
  have htarget := (j.keeps_recordEnd digest).starts.target h.target
  unfold Job.recordEnd at htarget ⊢
  split at htarget
  · next hp =>
    rw [if_pos hp]
    exact h
  · next hp =>
    rw [if_neg hp]
    exact h.own htarget rfl rfl rfl rfl rfl rfl rfl rfl

/-- The last block of a hole is written (R98, R103). -/
theorem Job.Laws.finishHoleItem {c : CurrentItem} (hwork : j.unit.WorksOn c) (hh : c.item.IsHole) (hscan : j.tracker.scan = none) :
    (j.finishHoleItem c.item).Laws due := by
  have ha : j.unit.activity ≠ .idle := by rw [hwork.hole hh]; decide
  have hdue := h.due_le fun i next stop hi => hh.not_block i (by cases hwork.1.symm.trans hi; rfl)
  rcases hh with ⟨start, hi⟩ | ⟨digest, hi⟩ <;> rw [hi]
  · exact h.finishItem ha hdue hscan _
  · show (Job.finishItem (.imageEnd digest) (if j.unit.order = .stop then j else j.recordEnd digest)).Laws due
    split
    · exact h.finishItem ha hdue hscan _
    · have hrecorded := h.recordEnd digest
      have hsame : (j.recordEnd digest).unit = j.unit ∧ (j.recordEnd digest).tracker = j.tracker := by
        unfold Job.recordEnd
        split <;> exact ⟨rfl, rfl⟩
      obtain ⟨hunit, htracker⟩ := hsame
      exact hrecorded.finishItem (by rw [hunit]; exact ha) (by rw [htracker]; exact hdue) (by rw [htracker]; exact hscan) _

/-- The own block of a BLOCK item is written (R109, R110). -/
theorem Job.Laws.finishBlockItem {c : CurrentItem} {i : BlockItem} (hwork : j.unit.WorksOn c) (hi : c.item = .block i)
    (hlast : c.stop ≤ c.next + 1) (hf : c.next + 1 ≤ j.tracker.frontier) (hscan : j.tracker.scan = none) :
    (j.finishBlockItem i).Laws due := by
  have ha : j.unit.activity ≠ .idle := by rw [hwork.build hi]; decide
  obtain ⟨item, next, stop⟩ := c
  have hitem : j.unit.item = some ⟨.block i, next, stop⟩ := hwork.1.trans (by rw [show item = .block i from hi])
  obtain ⟨_, _, _, hdue⟩ := (ReconUnit.itemFits_block hitem).mp h.item
  have hmoved : (j.mapUnit (fun u => { u with displacement := i.directive.displacementAfter u.displacement })).Laws due :=
    h.sameUnit ((Job.keeps_mapUnit (f := fun u => { u with displacement := i.directive.displacementAfter u.displacement }) rfl (Or.inl rfl)
      (Or.inl rfl) (Or.inl rfl) rfl).starts.target h.target) rfl rfl rfl rfl id
  refine hmoved.finishItem ha (fun q hq => ?_) hscan _
  cases hdue.symm.trans hq
  exact Nat.le_trans hlast hf

/-- RU goes on to its item's next block, or halts after an order (R99, R117). -/
theorem Job.Laws.nextBlock {c : CurrentItem} (hwork : j.unit.WorksOn c) (hmore : c.next + 1 < c.stop) (hf : c.next + 1 ≤ j.tracker.frontier)
    (hscan : j.tracker.scan = none) : (j.nextBlock c).Laws due := by
  have ha : j.unit.activity ≠ .idle ∧ j.unit.activity ≠ .fill ∧ j.unit.activity ≠ .verifyWait ∧ j.unit.activity ≠ .halted := by
    rcases hwork.2 with ⟨_, ha⟩ | ⟨_, ha⟩ <;> rw [ha] <;> decide
  have hin := h.target.unit.1 c hwork.1
  have hnotFaulted : j.phase ≠ .faulted := fun hp => (h.activity.faulted hp).elim ha.1 ha.2.2.2
  have hitem : ReconUnit.itemFits j.tracker.frontier due { j.unit with item := some { c with next := c.next + 1 }, block := none } := by
    obtain ⟨item, next, stop⟩ := c
    rcases hwork.2 with ⟨⟨i, hi⟩, _⟩ | ⟨hh, _⟩
    · cases hi
      obtain ⟨hstop, _, _, hdue⟩ := (ReconUnit.itemFits_block hwork.1).mp h.item
      exact (ReconUnit.itemFits_block rfl).mpr ⟨hstop, hmore, hf, hdue⟩
    · obtain ⟨_, hstop, hdue⟩ := (ReconUnit.itemFits_hole hwork.1 hh).mp h.item
      exact (ReconUnit.itemFits_hole rfl hh).mpr ⟨hmore, hstop, hdue⟩
  have hnext {a : Activity} (hb : a = j.unit.activity ∨ a = .halted) :
      Job.Laws due { j with unit := { j.unit with item := some { c with next := c.next + 1 }, block := none, activity := a } } := by
    have hbusy : a ≠ .idle ∧ a ≠ .fill ∧ a ≠ .verifyWait := by
      rcases hb with rfl | rfl
      · exact ⟨ha.1, ha.2.1, ha.2.2.1⟩
      · decide
    refine h.withUnit ?_ hitem (ReconUnit.blockFits_none rfl) h.stops.order
      (h.activity.of_working ha.1 (fun hp => absurd hp hnotFaulted) (fun _ hidle => absurd hidle ?_)
        (fun hw => absurd hw hbusy.2.2) h.activity.fill) (fun hs => ?_)
    · exact (Job.starts_unit (j := j) (u := { j.unit with item := some { c with next := c.next + 1 }, block := none, activity := a }) rfl id
        fun ht => ht.unit.hold (c := { c with next := c.next + 1 }) hin rfl (Or.inr rfl) rfl rfl).target h.target
    · rintro (hidle | hfill)
      · exact hbusy.1 hidle
      · exact hbusy.2.1 hfill
    · rw [hscan] at hs
      cases hs
  by_cases ho : j.unit.order = .work
  · rw [Job.nextBlock_work ho]
    exact (hnext (Or.inl rfl)).startItemBlock ⟨rfl, hwork.2⟩ (Nat.lt_of_lt_of_le hmore hin.2) hscan
  · rw [Job.nextBlock_halts ho]
    exact hnext (Or.inr rfl)

/-- RU's item after a completed write (R98, R109). -/
theorem Job.Laws.advanceItem {c : CurrentItem} (hwork : j.unit.WorksOn c) (hf : c.next + 1 ≤ j.tracker.frontier)
    (hscan : j.tracker.scan = none) : (j.advanceItem c).Laws due := by
  by_cases hmore : c.next + 1 < c.stop
  · rw [Job.advanceItem_more hmore]
    exact h.nextBlock hwork hmore hf hscan
  · have hlast := Nat.le_of_not_lt hmore
    rw [Job.advanceItem_last hlast]
    rcases hwork.2 with ⟨⟨i, hi⟩, _⟩ | ⟨hh, _⟩
    · rw [hi]
      exact h.finishBlockItem hwork hi hlast hf hscan
    · have hfinished := h.finishHoleItem hwork hh hscan
      rcases hh with ⟨start, hi⟩ | ⟨digest, hi⟩ <;> rw [hi] at hfinished ⊢ <;> exact hfinished

end

/-! ### FILL -/

section

variable {due : Option Nat} {w : Work} (h : w.job.Laws due) (ha : w.job.unit.activity = .fill) (hscan : w.job.tracker.scan = none)
include h ha hscan

/-- A FILL ends: RU is idle, and the job returns to READY (R15, R115). -/
theorem Work.laws_endFill (filled : Nat) : (w.endFill filled).job.Laws due := by
  have hended : Job.Laws due { w.job with unit := { w.job.unit with activity := .idle, block := none, fill := none } } := by
    refine h.withUnit ?_ h.item (ReconUnit.blockFits_none rfl) h.stops.order
      (h.activity.of_working (by rw [ha]; decide) (fun _ => Or.inl rfl) (fun hp _ => h.activity.itemless hp (Or.inr ha))
        (fun hw => nomatch hw) (fun f hf => nomatch hf)) (fun hs => ?_)
    · exact (Job.keeps_unit (u := { w.job.unit with activity := .idle, block := none, fill := none }) rfl (Or.inl rfl) (Or.inr rfl)
        (Or.inr rfl) rfl).starts.target h.target
    · rw [hscan] at hs
      cases hs
  unfold Work.endFill
  dsimp only
  split
  · next hp =>
    have hp : w.job.phase = .servicing := hp
    have hne (p : JobPhase) (hq : p ≠ .servicing) : w.job.phase ≠ p := fun h' => hq (h'.symm.trans hp)
    have hr := h.running_false (hne _ (by decide)) (hne _ (by decide)) (hne _ (by decide)) (hne _ (by decide))
    have hm := h.mark_false (hne _ (by decide)) (hne _ (by decide)) (hne _ (by decide))
    exact hended.movesTo (hne _ (by decide)) (by decide) (fun hr' => by cases hr.symm.trans hr') (fun hm' => by cases hm.symm.trans hm')
      (fun _ => rfl) (fun _ => Or.inl rfl) (h.close_none (hne _ (by decide)) (hne _ (by decide))) hscan
  · exact hended

/-- A FILL below F goes on (R115). -/
theorem Work.laws_continueFill {f : FillOperation} (hf : f.first + f.count ≤ w.job.tracker.frontier) : (w.continueFill f).job.Laws due := by
  have htarget := Work.continueFill_target h.target (Nat.le_trans hf h.target.tracker.2)
  unfold Work.continueFill at htarget ⊢
  cases hb : f.nextBlock w.job.tracker with
  | none => exact Work.laws_endFill h ha hscan _
  | some b =>
    rw [hb] at htarget
    obtain ⟨_, hlt, _⟩ := FillOperation.nextBlock_some hb
    refine h.withUnit htarget h.item (fun k hk => ?_) h.stops.order
      (h.activity.of_working (by rw [ha]; decide) h.activity.faulted h.activity.itemless h.activity.waits (fun f' hf' => ?_)) (fun hs => ?_)
    · cases hk
      exact ⟨ha, Nat.lt_of_lt_of_le hlt hf⟩
    · cases hf'
      exact hf
    · rw [hscan] at hs
      cases hs

end

/-! ### The completion -/

section

variable {due : Option Nat} {j : Job} (h : j.Laws due)
include h

/-- The end of a write completion: RU's report after its stop, and SD going on (R80, R118). -/
theorem Job.Laws.endWrite : j.endWrite.Laws due := by
  unfold Job.endWrite
  split
  · next ho => exact (h.unitStopped (h.stops.order ho)).wakeDecoder
  · exact h.wakeDecoder

/-- RU's write completes (R109). -/
theorem Job.Laws.unitWrite (o : Bool) : ((Work.mk j []).unitWrite o).job.Laws due := by
  cases hk : j.unit.block with
  | none =>
    have he : (Work.mk j []).unitWrite o = ⟨j, []⟩ := by
      unfold Work.unitWrite
      rw [hk]
    rw [he]
    exact h
  | some k =>
    rw [Work.unitWrite_eq (w := ⟨j, []⟩) hk]
    refine Job.Laws.endWrite ?_
    have hwritten := Work.laws_written (w := ⟨j, []⟩) h hk o
    have hfits := h.block k hk
    have hwait : j.unit.activity ≠ .verifyWait := fun hw => by cases hwork : k.work <;> simp [hwork, hw] at hfits
    obtain ⟨monitor, carry, hunit⟩ := Work.written_unit (w := ⟨j, []⟩) hwait k o
    have htracker := Work.written_tracker k o ⟨j, []⟩
    have hf : k.target + 1 ≤ ((Work.mk j []).written k o).job.tracker.frontier := by
      rw [htracker]
      exact h.report_frontier hk
    have hscan : ((Work.mk j []).written k o).job.tracker.scan = none := by
      rw [htracker]
      have hnone := h.scan_none_of_block hk
      rcases h.report_cases hk with ⟨_, tainted, he⟩ | ⟨_, final, he⟩ <;> rw [he]
      · exact (j.tracker.writeReport_listOnly k.target tainted).fields.2.2.trans hnone
      · exact (j.tracker.fillReport_listOnly k.target final).fields.2.2.trans hnone
    generalize (Work.mk j []).written k o = w at hwritten hunit hf hscan ⊢
    by_cases hfill : ∃ final, k.work = .hostFill final
    · obtain ⟨final, hwork⟩ := hfill
      rw [hwork] at hfits
      have ha : w.job.unit.activity = .fill := by
        rw [hunit]
        exact hfits.1
      cases hop : w.job.unit.fill with
      | none =>
        rw [Work.advance_noFill hwork hop]
        exact hwritten
      | some f =>
        rw [Work.advance_fill hwork hop]
        exact Work.laws_continueFill hwritten ha hscan (hwritten.activity.fill f hop)
    · have hitem : ∃ item stop, j.unit.WorksOn ⟨item, k.target, stop⟩ := by
        cases hwork : k.work with
        | hostFill final => exact absurd ⟨final, hwork⟩ hfill
        | holeFill =>
          rw [hwork] at hfits
          obtain ⟨ha, item, stop, hi, hh⟩ := hfits
          exact ⟨item, stop, hi, Or.inr ⟨hh, ha⟩⟩
        | skipped | ownCopy | ownSelf | ownData =>
          rw [hwork] at hfits
          obtain ⟨ha, i, stop, hi⟩ := hfits
          exact ⟨.block i, stop, hi, Or.inl ⟨⟨i, rfl⟩, ha⟩⟩
      obtain ⟨item, stop, hworks⟩ := hitem
      have hworks : w.job.unit.WorksOn ⟨item, k.target, stop⟩ := by
        rw [hunit]
        exact hworks
      rw [Work.advance_item (fun final hwork => hfill ⟨final, hwork⟩) hworks.1]
      exact hwritten.advanceItem hworks hf hscan

end

end Sys2Proof.Machine
end

section
/-! RU's taking of an item and of a FILL, ABORT, and O55: every step keeps the laws of the repair list (R30). -/

namespace Sys2Proof.Machine

/-! ### Items -/

/-- The job states in which RU may begin an item: a run, or the quiesce that SD's part of the same event has begun. -/
def JobPhase.Begins (p : JobPhase) : Prop := p.inRun = true ∨ p = .quiescing

theorem JobPhase.Begins.ne {p q : JobPhase} (h : p.Begins) (hq : q.inRun = false) (hq' : q ≠ .quiescing) : p ≠ q := by
  rintro rfl
  rcases h with h | h
  · cases hq.symm.trans h
  · exact hq' h

/-- RU is idle with nothing in hand, about to begin an item. -/
structure Job.Begins (j : Job) : Prop where
  phase : j.phase.Begins
  idle : j.unit.activity = .idle
  item : j.unit.item = none

section

variable {due : Option Nat} {j : Job} (h : j.LawsBut due) (hb : j.Begins)
include h hb

theorem Job.LawsBut.begins_still : j.unit.block = none ∧ j.tracker.scan = none :=
  ⟨h.block_none (Or.inl hb.idle), h.scan_none (hb.phase.ne rfl (by decide)) (hb.phase.ne rfl (by decide))⟩

/-- RU with a new activity and item, in a state in which it may begin one. -/
theorem Job.LawsBut.beginWith {u : ReconUnit} (ht : Job.InTarget { j with unit := u }) (hitem : u.itemFits j.tracker.frontier due)
    (hblock : u.block = j.unit.block) (horder : u.order = j.unit.order) (hfill : u.fill = j.unit.fill)
    (hactivity : u.activity = .idle ∧ u.item = none ∨ u.activity = .build ∨ u.activity = .hole ∨
      u.activity = .verifyWait ∧ ∀ c, u.item = some c → c.item.task? ≠ none) : Job.Laws due { j with unit := u } := by
  obtain ⟨hnone, hscan⟩ := h.begins_still hb
  refine h.withUnit ht hitem (ReconUnit.blockFits_none (hblock.trans hnone)) (fun ho => h.stops.order (horder ▸ ho)) ?_ (fun hs => ?_)
  · refine ⟨fun hp => ?_, fun hp => absurd hp (hb.phase.ne rfl (by decide)), fun _ ha => ?_, fun ha c hc => ?_, fun f hf => ?_⟩
    · rcases hp with hp | hp | hp <;> exact absurd hp (hb.phase.ne rfl (by decide))
    · rcases hactivity with ⟨_, hi⟩ | ha' | ha' | ⟨ha', _⟩
      · exact hi
      all_goals
        have ha : u.activity = .idle ∨ u.activity = .fill := ha
        simp [ha'] at ha
    · have ha : u.activity = .verifyWait := ha
      rcases hactivity with ⟨ha', _⟩ | ha' | ha' | ⟨_, hwaits⟩
      · cases ha.symm.trans ha'
      · cases ha.symm.trans ha'
      · cases ha.symm.trans ha'
      · exact hwaits c hc
    · exact h.activity.fill f (hfill ▸ hf)
  · rw [hscan] at hs
    cases hs

/-- Without an item in RU's hand the laws ask that the block due is at most F. -/
theorem Job.LawsBut.laws (hdue : ∀ q, due = some q → q ≤ j.tracker.frontier) : j.Laws due :=
  ⟨h, (ReconUnit.itemFits_none hb.item).mpr hdue⟩

/-- RU holds an item and starts its first block (R98, R99). -/
theorem Job.LawsBut.holdItem {a : Activity} {c : CurrentItem} (hc : c.inTarget j.descriptor.targetLength)
    (hkind : (∃ i, c.item = .block i) ∧ a = .build ∨ c.item.IsHole ∧ a = .hole) (hnext : c.next < j.descriptor.targetLength)
    (hitem : ReconUnit.itemFits j.tracker.frontier due { j.unit with activity := a, item := some c }) : (j.holdItem a c).Laws due := by
  have hheld : Job.Laws due { j with unit := { j.unit with activity := a, item := some c } } := by
    refine h.beginWith hb ?_ hitem rfl rfl rfl ?_
    · exact (Job.starts_unit (j := j) (u := { j.unit with activity := a, item := some c }) rfl id
        fun ht => ht.unit.hold hc rfl (Or.inl rfl) rfl rfl).target h.target
    · rcases hkind with ⟨_, ha⟩ | ⟨_, ha⟩
      · exact Or.inr (Or.inl ha)
      · exact Or.inr (Or.inr (Or.inl ha))
  exact hheld.startItemBlock ⟨rfl, hkind⟩ hnext (h.begins_still hb).2

end

/-- A change of RU's displacement, where RU may begin an item. -/
theorem Job.LawsBut.displaced {due : Option Nat} {j : Job} (h : j.LawsBut due) (displacement : Option Int) :
    Job.LawsBut due { j with unit := { j.unit with displacement := displacement } } where
  target := (Job.keeps_unit (u := { j.unit with displacement := displacement }) rfl (Or.inl rfl) (Or.inl rfl) (Or.inl rfl)
    rfl).starts.target h.target
  lists := h.lists
  list := h.list
  scan := h.scan
  block := h.block
  stream := ⟨h.stream.follow, h.stream.place, h.stream.running, h.stream.fault⟩
  stops := ⟨h.stops.decoder, h.stops.unit, h.stops.order⟩
  activity := ⟨h.activity.still, h.activity.faulted, h.activity.itemless, h.activity.waits, h.activity.fill⟩
  checks := ⟨h.checks.tasks, h.checks.close⟩
  scanning := h.scanning

section

variable {due : Option Nat} {w : Work} (h : w.job.LawsBut due) (hb : w.job.Begins)
include h hb

/-- RU takes a SECTION_BEGIN or IMAGE_END: the hole before it (R100, R103, R112). -/
theorem Work.laws_takeHole {item : Item} {start : Nat} {whenNone : Work → Work} (hh : item.IsHole)
    (hin : item.inTarget w.job.descriptor.targetLength) (hstart : start ≤ w.job.descriptor.targetLength)
    (hdue : ∀ q, due = some q → q ≤ max w.job.tracker.frontier start)
    (hnone : ∀ w : Work, w.job.Laws due → (whenNone w).job.Laws due) : (w.takeHole item start whenNone).job.Laws due := by
  obtain ⟨_, hscan⟩ := h.begins_still hb
  obtain ⟨_, hfrontier, _⟩ := w.job.tracker.holeRequest_fields start
  have hkept : (w.job.tracker.holeRequest start).1.tracker.scan = w.job.tracker.scan := by
    unfold Tracker.holeRequest
    split
    · exact (w.job.tracker.addRange_listOnly _).fields.2.2
    · rfl
  have hasked : Job.LawsBut due { w.job with tracker := (w.job.tracker.holeRequest start).1.tracker } :=
    h.withTracker (h.target.tracker.holeRequest hstart) (Tracker.goes_holeRequest _ _) (h.list.holeRequest _)
      (.of_none (hkept.trans hscan)) (fun hs => by rw [hkept] at hs; exact hs)
  obtain ⟨ns, he, _⟩ := w.account_spec (w.job.tracker.holeRequest start).1
  have hdue' : ∀ q, due = some q → q ≤ (w.job.tracker.holeRequest start).1.tracker.frontier := by
    rw [hfrontier]
    exact hdue
  have hbegins : Job.Begins { w.job with tracker := (w.job.tracker.holeRequest start).1.tracker } := ⟨hb.phase, hb.idle, hb.item⟩
  unfold Work.takeHole
  dsimp only
  rw [he]
  split
  · exact hnone _ (hasked.laws hbegins hdue')
  · next hc =>
    obtain ⟨hhole, hlt, hstop⟩ := Tracker.holeRequest_spec (fun hz => hc (Or.inl hz))
    have hfirst : (w.job.tracker.holeRequest start).2.first < start := by
      rw [hhole]
      exact hlt
    refine hasked.holdItem hbegins (c := ⟨item, _, _⟩) ⟨hin, Nat.le_trans (Nat.le_of_eq hstop) hstart⟩ (Or.inr ⟨hh, rfl⟩)
      (Nat.lt_of_lt_of_le hfirst hstart) ((ReconUnit.itemFits_hole rfl hh).mpr ⟨?_, ?_, hdue'⟩)
    · rw [hstop]
      exact hfirst
    · show (w.job.tracker.holeRequest start).2.stop ≤ (w.job.tracker.holeRequest start).1.tracker.frontier
      rw [hstop, hfrontier]
      exact Nat.le_max_right ..

end

section

variable {due : Option Nat} {j : Job} (h : j.LawsBut due) (hb : j.Begins) (hdue : ∀ q, due = some q → q ≤ j.tracker.frontier)
include h hb hdue

/-- RU takes a SECTION_END below F: its task joins VE's queue, or RU waits with it (R101, R125). -/
theorem Job.LawsBut.takeSectionEnd {number : Word16} {start count : Nat} {digest : Option Word32}
    (hin : start + count ≤ j.descriptor.targetLength) (hend : start + count ≤ j.tracker.frontier) (o : Bool) :
    (j.takeSectionEnd (.sectionEnd number start count digest) o).Laws due := by
  have hcounted := (h.laws hb hdue).count .sectionsCompleted 1
  have hbegins : (j.count .sectionsCompleted 1).Begins := by
    rw [Job.count_counters]
    exact ⟨hb.phase, hb.idle, hb.item⟩
  have hsame : (j.count .sectionsCompleted 1).tracker = j.tracker ∧ (j.count .sectionsCompleted 1).descriptor = j.descriptor := by
    rw [Job.count_counters]
    exact ⟨rfl, rfl⟩
  obtain ⟨htracker, hdescriptor⟩ := hsame
  unfold Job.takeSectionEnd
  dsimp only
  rw [← htracker] at hend hdue
  rw [← hdescriptor] at hin
  generalize j.count .sectionsCompleted 1 = k at hcounted hbegins hend hdue hin ⊢
  cases digest with
  | none => exact hcounted
  | some digest =>
    dsimp only [Item.task?]
    split
    · have hjoined : (k.mapVerifier (Verifier.join ⟨number, start, count, digest⟩)).Laws due := {
        target := (Job.keeps_mapVerifier _ k).starts.target hcounted.target
        lists := hcounted.lists
        list := hcounted.list
        scan := hcounted.scan
        item := hcounted.item
        block := hcounted.block
        stream := ⟨hcounted.stream.follow, hcounted.stream.place, hcounted.stream.running, hcounted.stream.fault⟩
        stops := ⟨hcounted.stops.decoder, hcounted.stops.unit, hcounted.stops.order⟩
        activity := ⟨hcounted.activity.still, hcounted.activity.faulted, hcounted.activity.itemless, hcounted.activity.waits,
          hcounted.activity.fill⟩
        checks := ⟨fun t ht => (List.mem_append.mp ht).elim (hcounted.checks.tasks t)
          (fun ht => by rw [List.mem_singleton.mp ht]; exact hend), hcounted.checks.close⟩
        scanning := hcounted.scanning }
      exact hjoined.beginTask o
    · refine hcounted.beginWith (u := { k.unit with activity := .verifyWait, item := some ⟨_, 0, 0⟩ }) hbegins ?_
        ((ReconUnit.itemFits_sectionEnd rfl).mpr ⟨hend, hdue⟩) rfl rfl rfl (Or.inr (Or.inr (Or.inr ⟨rfl, fun c hc => ?_⟩)))
      · exact (Job.starts_unit (j := k) (u := { k.unit with activity := .verifyWait, item := some ⟨_, 0, 0⟩ }) rfl id
          fun ht => ht.unit.hold (c := ⟨.sectionEnd number start count (some digest), 0, 0⟩) ⟨hin, Nat.zero_le _⟩ rfl (Or.inl rfl)
            rfl rfl).target hcounted.target
      · cases hc
        exact fun hn => nomatch hn

end

/-- RU begins an item that follows the block due (R98, R100 to R104). -/
theorem Work.laws_beginItem {due : Option Nat} {item : Item} {w : Work} (h : w.job.LawsBut (item.dueAfter due)) (hb : w.job.Begins)
    (hdue : ∀ q, due = some q → q ≤ w.job.tracker.frontier) (hfollows : item.follows due)
    (hin : item.inTarget w.job.descriptor.targetLength) (o : Bool) : (w.beginItem item o).job.Laws (item.dueAfter due) := by
  cases item with
  | sectionBegin start =>
    exact Work.laws_takeHole (w := ⟨{ w.job with unit := { w.job.unit with displacement := some 0 } }, w.notices⟩) (h.displaced (some 0))
      ⟨hb.phase, hb.idle, hb.item⟩ (Or.inl ⟨start, rfl⟩) hin hin (fun q hq => by cases hq; exact Nat.le_max_right ..) (fun _ hw => hw)
  | block i =>
    obtain ⟨hblock, hinc⟩ := hin
    have hnext : i.block + 1 - i.increment < i.block + 1 := by omega
    exact h.holdItem hb (a := .build) (c := ⟨.block i, i.block + 1 - i.increment, i.block + 1⟩) ⟨⟨hblock, hinc⟩, hblock⟩
      (Or.inl ⟨⟨i, rfl⟩, rfl⟩) (Nat.lt_of_lt_of_le hnext hblock) ((ReconUnit.itemFits_block rfl).mpr ⟨rfl, hnext, hdue _ hfollows, rfl⟩)
  | sectionEnd number start count digest =>
    obtain ⟨q, hq, hend⟩ := hfollows
    exact h.takeSectionEnd hb hdue hin (Nat.le_trans hend (hdue q hq)) o
  | abandon => exact (h.displaced none).laws ⟨hb.phase, hb.idle, hb.item⟩ (fun q hq => nomatch hq)
  | imageEnd digest =>
    exact Work.laws_takeHole h hb (Or.inr ⟨digest, rfl⟩) hin (Nat.le_refl _) (fun q hq => Nat.le_trans (hdue q hq) (Nat.le_max_left ..))
      (fun w hw => hw.recordEnd digest)

/-- An item leaves the queue: the block due is the one after it, and RU is about to begin it. -/
theorem Job.LawsBut.dequeue {due : Option Nat} {j : Job} (h : j.LawsBut due) {item : Item} {rest : List Item} (hq : j.queue = item :: rest) :
    Job.LawsBut (item.dueAfter due) { j with queue := rest } where
  target := by
    have ht := h.target
    rw [Job.inTarget_iff] at ht ⊢
    obtain ⟨hfit, htr, ⟨hdec, hqueue⟩, hunit⟩ := ht
    exact ⟨hfit, htr, ⟨hdec, fun i hi => hqueue i (by rw [hq]; exact List.mem_cons_of_mem _ hi)⟩, hunit⟩
  lists := h.lists
  list := h.list
  scan := h.scan
  block := h.block
  stream := by
    obtain ⟨hfollow, hplace, hrunning, hfault⟩ := h.stream
    rw [hq] at hfollow hplace
    exact ⟨hfollow.2, hplace, hrunning, hfault⟩
  stops := ⟨h.stops.decoder, h.stops.unit, h.stops.order⟩
  activity := ⟨h.activity.still, h.activity.faulted, h.activity.itemless, h.activity.waits, h.activity.fill⟩
  checks := ⟨h.checks.tasks, h.checks.close⟩
  scanning := h.scanning

/-- RU takes an item (R98). -/
theorem Job.Laws.takeItem {due : Option Nat} {j : Job} (h : j.Laws due) (hcan : j.canTakeItem = true) (first o : Bool) :
    ∃ due', (j.takeItem first o).job.Laws due' := by
  simp only [Job.canTakeItem, Bool.and_eq_true, ReconUnit.isIdle, beq_iff_eq] at hcan
  obtain ⟨⟨hrun, hidle⟩, _⟩ := hcan
  have hnone : j.unit.item = none := h.activity.itemless (JobPhase.inRun_ne_aborting hrun) (Or.inl hidle)
  have hdue := (ReconUnit.itemFits_none hnone).mp h.item
  unfold Job.takeItem
  cases hq : j.queue with
  | nil => exact ⟨due, h⟩
  | cons item rest =>
    refine ⟨item.dueAfter due, ?_⟩
    have hfollows : item.follows due := by
      have hfollow := h.stream.follow
      rw [hq] at hfollow
      exact hfollow.1
    have hin : item.inTarget j.descriptor.targetLength := h.target.stream.2 item (by rw [hq]; exact List.mem_cons_self ..)
    have hrest := h.toLawsBut.dequeue hq
    dsimp only
    split
    · have hdecodes := Job.wakeDecoder_decodes { j with queue := rest }
      have hd := (Job.goes_wakeDecoder { j with queue := rest }).descriptor
      generalize Job.wakeDecoder { j with queue := rest } = woken at hdecodes hd ⊢
      obtain ⟨hunit, htracker, _, _, _, hphase⟩ := hdecodes.slides
      have hbegins : woken.Begins := by
        refine ⟨?_, by rw [hunit]; exact hidle, by rw [hunit]; exact hnone⟩
        rcases hphase with hp | ⟨_, hp | hp⟩ <;> rw [hp]
        · exact Or.inl hrun
        · exact Or.inl rfl
        · exact Or.inr rfl
      exact Work.laws_beginItem (w := ⟨woken, []⟩) (hdecodes.lawsBut hrest) hbegins (by rw [htracker]; exact hdue) hfollows (hd ▸ hin) o
    · exact Job.Laws.wakeDecoder (Work.laws_beginItem (w := ⟨{ j with queue := rest }, []⟩) hrest ⟨Or.inl hrun, hidle, hnone⟩ hdue hfollows
        hin o)

/-- An accepted FILL (R114, R115). -/
theorem Job.Laws.beginFill {due : Option Nat} {j : Job} (h : j.Laws due) (hp : j.phase = .ready) {body : Bytes} {f : FillOperation}
    (hf : readFill j.tracker.frontier body = .ok f) : (j.beginFill f).job.Laws due := by
  obtain ⟨hidle, hblock, _, _, _, hscan⟩ := h.ready hp
  have hnone : j.unit.item = none := h.activity.itemless (by rw [hp]; decide) (Or.inl hidle)
  have hmoved := h.leaveReady hp (Or.inl rfl)
  have hserving : Job.Laws due { j with phase := .servicing, unit := { j.unit with activity := .fill } } := by
    refine hmoved.withUnit (u := { j.unit with activity := .fill }) ?_ h.item (ReconUnit.blockFits_none hblock) hmoved.stops.order
      ⟨fun hp' => ?_, fun hp' => (nomatch hp'), fun _ _ => hnone, fun ha => (nomatch ha), h.activity.fill⟩ (fun hs => ?_)
    · exact (Job.keeps_unit (u := { j.unit with activity := .fill }) rfl (Or.inl rfl) (Or.inl rfl) (Or.inl rfl)
        rfl).starts.target hmoved.target
    · simp at hp'
    · have hs : j.tracker.scan.isSome = true := hs
      rw [hscan] at hs
      cases hs
  exact Work.laws_continueFill (w := ⟨{ j with phase := .servicing, unit := { j.unit with activity := .fill } }, []⟩) hserving rfl hscan
    (readFill_bound hf)

/-! ### ABORT -/

theorem Job.Laws.beginAbort {due : Option Nat} {j : Job} (h : j.Laws due) : j.beginAbort.Laws due := by
  rw [Job.beginAbort_eq]
  exact {
    target := by
      have ht := h.target
      rw [Job.inTarget_iff] at ht ⊢
      exact ht
    lists := h.lists
    list := h.list
    scan := h.scan
    item := h.item
    block := h.block
    stream := ⟨h.stream.follow, fun hlive => h.stream.place (hlive.elim Or.inl (fun ⟨_, hp⟩ => absurd rfl hp)),
      fun _ => Or.inr (Or.inr (Or.inr rfl)), fun hm => ⟨(h.stream.fault hm).1, Or.inr (Or.inr rfl)⟩⟩
    stops := ⟨fun _ => rfl, fun _ => rfl, fun _ => rfl⟩
    activity := ⟨fun hp => by simp at hp, fun hp => (nomatch hp), fun hp => absurd rfl hp, h.activity.waits, h.activity.fill⟩
    checks := ⟨h.checks.tasks, fun c hc => ⟨(h.checks.close c hc).1, (h.checks.close c hc).2.1, Or.inr rfl⟩⟩
    scanning := fun hs => ⟨(h.scanning hs).1, (h.scanning hs).2.1, Or.inr rfl⟩ }

/-- The stops taken in ABORT's own event keep the laws. -/
theorem Job.Laws.stopAtOnce {due : Option Nat} {j : Job} (h : j.Laws due) (hp : j.phase = .aborting) (n : Nat) (ru ve : Bool) :
    (j.stopAtOnce n ru ve).Laws due := by
  unfold Job.stopAtOnce
  dsimp only
  have hdecoder : (if Config.decoderStopsAtOnce n then j.abortDecoder else j).Laws due ∧
      (if Config.decoderStopsAtOnce n then j.abortDecoder else j).phase = .aborting := by
    split
    · exact ⟨h.abortDecoder hp, hp⟩
    · exact ⟨h, hp⟩
  generalize (if Config.decoderStopsAtOnce n then j.abortDecoder else j) = j at hdecoder ⊢
  obtain ⟨h, hp⟩ := hdecoder
  have hunit : (if Config.unitStopsAtOnce n then j.stopUnit ru else j).Laws due := by
    split
    · exact h.stopUnit hp ru
    · exact h
  generalize (if Config.unitStopsAtOnce n then j.stopUnit ru else j) = j at hunit ⊢
  have hverifier : (if Config.verifierStopsAtOnce n then j.stopVerifier ve else j).Laws due := by
    split
    · exact hunit.stopVerifier ve
    · exact hunit
  generalize (if Config.verifierStopsAtOnce n then j.stopVerifier ve else j) = j at hverifier ⊢
  split
  · exact hverifier.stopScan
  · exact hverifier

/-! ### Every work at the job -/

theorem JobEvent.laws {s : State} {j : Job} {w : Work} {due : Option Nat} (h : JobEvent s j w) (hj : j.Laws due) : w.job.Laws due := by
  cases h with
  | takeByte h => exact hj.takeByte h
  | suspend _ => exact hj.suspendDecoder
  | halt _ => exact hj.haltDecoder
  | decoderStop h => exact hj.abortDecoder (hj.stops.decoder h)
  | gapExpiry _ => exact hj.expireGap
  | quiescing _ => exact hj.takeQuiescing
  | unitStop h => exact hj.stopUnit (hj.stops.unit h) _
  | monitorExpiry _ => exact hj.expireMonitor
  | verifierStop _ => exact hj.stopVerifier _
  | scanVisit h => exact hj.scanVisit h
  | scanStop _ => exact hj.stopScan

theorem StoreEvent.laws {s : State} {j : Job} {st : Store} {w : Work} {due : Option Nat} (h : StoreEvent s j st w) (hj : j.Laws due) :
    ∃ due', w.job.Laws due' := by
  cases h with
  | takeItem first h => exact hj.takeItem h first _
  | unitRead i data _ => exact ⟨due, hj.unitRead data⟩
  | unitWrite i content _ => exact ⟨due, hj.unitWrite false⟩
  | verifierRead i data _ => exact ⟨due, Work.laws_verifierRead (w := ⟨j, []⟩) hj data⟩

theorem Settles.laws {s : State} {j : Job} {flight : Option Transaction} {w : Work} {due : Option Nat} (h : Settles s j flight w)
    (hj : j.Laws due) : ∃ due', w.job.Laws due' := by
  cases h with
  | event w h => exact ⟨due, h.laws hj⟩
  | store st w h => exact h.laws hj
  | ran j' h =>
    cases h with
    | run limit hp => exact ⟨due, hj.run hp limit⟩
    | pause hp => exact ⟨due, hj.pause hp⟩
  | filled body f hp hf => exact ⟨due, hj.beginFill hp hf⟩

theorem Direct.laws {s : State} {j j' : Job} {due : Option Nat} (h : Direct s j j') (hj : j.Laws due) : ∃ due', j'.Laws due' := by
  cases h with
  | requested j' h =>
    cases h with
    | recover hp => exact ⟨none, hj.recover hp⟩
    | parcel p _ _ => exact ⟨due, hj.takeParcel p⟩
    | repairScan hp => exact ⟨due, hj.repairScan hp⟩
  | waived body r hp hr => exact ⟨due, hj.waive hp hr⟩
  | closing expected hp ht => exact ⟨due, hj.beginClose hp ht⟩

/-! ### The law of every step -/

theorem Job.Laws.listLaws {due : Option Nat} {j : Job} (h : j.Laws due) : j.ListLaws := (Job.listLaws_iff j).mpr ⟨due, h⟩

/-- The laws of the repair list are a law of the job. -/
theorem jobLaw_listLaws : JobLaw Job.ListLaws := by
  refine .of_settle (fun s j j' h hj => ?_) (fun s j w flight h hj => ?_) (fun o w hw => ?_) (fun n ru ve j hp hj => ?_) (fun j hj => ?_)
    (fun j hj => ?_)
  · obtain ⟨due, hj⟩ := (Job.listLaws_iff j).mp hj
    exact (Job.listLaws_iff j').mpr (h.laws hj)
  · obtain ⟨due, hj⟩ := (Job.listLaws_iff j).mp hj
    exact (Job.listLaws_iff w.job).mpr (h.laws hj)
  · obtain ⟨due, hw⟩ := (Job.listLaws_iff w.job).mp hw
    exact (Work.laws_settle hw).listLaws
  · obtain ⟨due, hj⟩ := (Job.listLaws_iff j).mp hj
    exact (hj.beginAbort.stopAtOnce (by rw [Job.beginAbort_eq]) n ru ve).listLaws
  · obtain ⟨due, hj⟩ := (Job.listLaws_iff j).mp hj
    have hgranted : j.Starts (j.mapUnit (fun u => { u with waiting := none })) :=
      Job.starts_unit rfl id fun hj => hj.unit.mono (Or.inl rfl) (Or.inl rfl) (Or.inl rfl) (Or.inr rfl)
    exact (hj.sameUnit (hgranted.target hj.target) rfl rfl rfl rfl id).listLaws
  · obtain ⟨due, hj⟩ := (Job.listLaws_iff j).mp hj
    exact (hj.withVerifier (fun t ht => ht) (fun c hc => hc)).listLaws

/-- A new job has an empty map and nothing at work. -/
theorem Job.start_laws {d : Descriptor} (hd : d.Fits) : (Job.start d).Laws none where
  target := (Job.start_unitLaw hd (flight := none) rfl).1
  lists := ⟨rangesInOrder_nil, fun sc hsc => nomatch hsc⟩
  list := by
    refine Tracker.listExact_iff.mpr ⟨fun b hb => ?_, fun _ b hb => absurd hb (Nat.not_lt_zero b), fun b _ => ?_⟩
    · obtain ⟨r, hr, _⟩ := hb
      cases hr
    · show (List.replicate d.targetLength Coverage.empty).getD b .empty = .empty
      rw [List.getD_eq_getElem?_getD, List.getElem?_replicate]
      split <;> rfl
  scan := .of_none rfl
  item := (ReconUnit.itemFits_none rfl).mpr fun q hq => nomatch hq
  block := ReconUnit.blockFits_none rfl
  stream := ⟨trivial, fun _ c hc => (nomatch hc), fun hr => (nomatch hr), fun hm => (nomatch hm)⟩
  stops := ⟨fun hd => (nomatch hd), fun hu => (nomatch hu), fun ho => (nomatch ho)⟩
  activity := ⟨fun _ => rfl, fun hp => (nomatch hp), fun _ _ => rfl, fun ha => (nomatch ha), fun f hf => (nomatch hf)⟩
  checks := ⟨fun t ht => (nomatch ht), fun c hc => (nomatch hc)⟩
  scanning := fun hs => nomatch hs

/-- What the laws say of the repair list, with its ranges and states written out. -/
theorem Job.ListLaws.exact {j : Job} (h : j.ListLaws) :
    j.tracker.repairs.length ≤ 32 ∧
      (∀ r ∈ j.tracker.repairs, ∀ b, r.first ≤ b → b < r.first + r.count →
        b < j.tracker.frontier ∧ (j.tracker.state b = .empty ∨ j.tracker.state b = .carried ∨ j.tracker.state b = .suspect)) ∧
      (j.tracker.overflow = false → ∀ b, b < j.tracker.frontier →
        (j.tracker.state b = .empty ∨ j.tracker.state b = .carried ∨ j.tracker.state b = .suspect) →
        ∃ r ∈ j.tracker.repairs, r.first ≤ b ∧ b < r.first + r.count) := by
  obtain ⟨_, ⟨horder, _⟩, ⟨hsound, hcomplete, _⟩, _⟩ := h
  refine ⟨horder.1, fun r hr b h1 h2 => ?_, fun ho b hb hs => ?_⟩
  · obtain ⟨hlt, hl⟩ := hsound r hr b (BlockRange.holds_iff.mpr ⟨h1, h2⟩)
    exact ⟨hlt, Coverage.listable_iff.mp hl⟩
  · obtain ⟨r, hr, hrb⟩ := hcomplete ho b hb (Coverage.listable_iff.mpr hs)
    exact ⟨r, hr, BlockRange.holds_iff.mp hrb⟩

/-- Settles O55: every operation of CT keeps its lists in order; and each work at the job keeps the laws of the repair list, because items
come in the order of the blocks they cover. -/
theorem stepKeepsListsInOrder : Obligations.StepKeepsListsInOrder := by
  unfold Obligations.StepKeepsListsInOrder
  refine ⟨fun s t h hs => step_listsInOrder h hs, fun s t h hs => ?_⟩
  have hlaws : t.jobHas Job.ListLaws :=
    jobLaw_listLaws.step (fun _ d hd => (Job.start_laws (readDescriptor_fits hd)).listLaws) hs h
  exact ⟨hlaws, fun j hj => (hlaws j hj).exact⟩

end Sys2Proof.Machine
end
